-- ==== Sys2Proof/Word.lean ====
section
/-! DEFINITION. The two word types of the core: a byte of a stream and a 64-bit value (00_scope.md R4). -/

namespace Sys2Proof

/-- A byte of a stream or of an encoding: 8 bits (R4, R31). -/
abbrev Byte := BitVec 8

/-- A value: every operand of ENCODE and every result of DECODE is an unsigned integer of 64 bits (R4). -/
abbrev Word := BitVec 64

end Sys2Proof
end

