-- ==== Sys2Proof/Config.lean ====
section
/-! DEFINITION. What an implementation fixes (the layout variant) and the free values, which the spec leaves open.

The other parameters of 00_scope.md's table are fixed numbers; they stand where the rules that use them are
written (Sys2Proof/Machine/Operands.lean), as the rules write them. -/

namespace Sys2Proof

/-- The open parameter `VARIANT` (00_scope.md R5): which of the two wire layouts an instance implements. -/
inductive Variant where
  | a
  | b
  deriving DecidableEq, Repr

/-- The variant of `State.reset` and of `decodeTableWord`. DESIGN CHOICE (log 2), unsafe: the spec declines to
choose (R5, D1) and uses A wherever an illustration needs one. `State.resetOf` gives the reset state of either. -/
def Config.resetVariant : Variant := .a

/-- The bits a reset event leaves in the fields that 10_state.md R27 calls unspecified (U5: any value).
DESIGN CHOICE (log 4), safe: nothing constrains it. -/
opaque Config.freeWord (n : Nat) : Word

/-- Whether the sink had accepted the byte of the transfer outstanding when reset arrived (R186, U9: any of the two
outcomes). DESIGN CHOICE (log 5), safe: nothing constrains it. -/
opaque Config.resetSinkMoved (n : Nat) : Bool

/-- Whether the source had delivered the byte of the transfer outstanding when reset arrived (R186, U9: any of the two
outcomes). DESIGN CHOICE (log 5), safe: nothing constrains it. -/
opaque Config.resetSourceMoved (n : Nat) : Bool

end Sys2Proof
end

