-- ==== Sys2Proof/Syntax.lean ====
section
/-! DEFINITION. The instructions: one constructor per row of spec/opcode_table.json (30_encoding.md R69, R72).

A wire form is an instruction whose opcode is its leading byte and whose operands are its payload bytes, first byte of the
stream first (R50, R51); DEC executes it. The two operations are the commands `enc_start(v)` and `dec_start` (R69). -/

namespace Sys2Proof

/-- The instructions. The docstring of a constructor names its row and the format rule. -/
inductive Instr where
  /-- A.DIRECT.0 (R54): one byte, 0x00 to 0x7f, the value itself. -/
  | aDirect0 (b0 : Byte)
  /-- A.DIRECT.1 (R54): one byte, 0x80 to 0xbf, the value itself. -/
  | aDirect1 (b0 : Byte)
  /-- A.DIRECT.2 (R54): one byte, 0xc0 to 0xdf, the value itself. -/
  | aDirect2 (b0 : Byte)
  /-- A.DIRECT.3 (R54): one byte, 0xe0 to 0xef, the value itself. -/
  | aDirect3 (b0 : Byte)
  /-- A.DIRECT.4 (R54): one byte, 0xf0 to 0xf3, the value itself. -/
  | aDirect4 (b0 : Byte)
  /-- A.DIRECT.5 (R54): one byte, 0xf4 to 0xf5, the value itself. -/
  | aDirect5 (b0 : Byte)
  /-- A.DIRECT.6 (R54): one byte, 0xf6 to 0xf6, the value itself. -/
  | aDirect6 (b0 : Byte)
  /-- A.GEN1 (R55): leading byte 0xf7, then 1 payload byte, big-endian. -/
  | aGen1 (b1 : Byte)
  /-- A.GEN2 (R55): leading byte 0xf8, then 2 payload bytes, big-endian. -/
  | aGen2 (b1 b2 : Byte)
  /-- A.GEN3 (R55): leading byte 0xf9, then 3 payload bytes, big-endian. -/
  | aGen3 (b1 b2 b3 : Byte)
  /-- A.GEN4 (R55): leading byte 0xfa, then 4 payload bytes, big-endian. -/
  | aGen4 (b1 b2 b3 b4 : Byte)
  /-- A.GEN5 (R55): leading byte 0xfb, then 5 payload bytes, big-endian. -/
  | aGen5 (b1 b2 b3 b4 b5 : Byte)
  /-- A.GEN6 (R55): leading byte 0xfc, then 6 payload bytes, big-endian. -/
  | aGen6 (b1 b2 b3 b4 b5 b6 : Byte)
  /-- A.GEN7 (R55): leading byte 0xfd, then 7 payload bytes, big-endian. -/
  | aGen7 (b1 b2 b3 b4 b5 b6 b7 : Byte)
  /-- A.GEN8 (R55): leading byte 0xfe, then 8 payload bytes, big-endian. -/
  | aGen8 (b1 b2 b3 b4 b5 b6 b7 b8 : Byte)
  /-- A.SENTINEL (R62): the reserved leading byte 0xff. -/
  | aSentinel
  /-- B.DIRECT.0 (R57): one byte, 0x00 to 0x7f, the value itself. -/
  | bDirect0 (b0 : Byte)
  /-- B.DIRECT.1 (R57): one byte, 0x80 to 0xbf, the value itself. -/
  | bDirect1 (b0 : Byte)
  /-- B.DIRECT.2 (R57): one byte, 0xc0 to 0xdf, the value itself. -/
  | bDirect2 (b0 : Byte)
  /-- B.DIRECT.3 (R57): one byte, 0xe0 to 0xef, the value itself. -/
  | bDirect3 (b0 : Byte)
  /-- B.DIRECT.4 (R57): one byte, 0xf0 to 0xf0, the value itself. -/
  | bDirect4 (b0 : Byte)
  /-- B.T2.k0 (R58): leading byte 0xf1, then the low byte of the offset d, whose bits 10 to 8 are 0. -/
  | bT2k0 (b1 : Byte)
  /-- B.T2.k1 (R58): leading byte 0xf2, then the low byte of the offset d, whose bits 10 to 8 are 1. -/
  | bT2k1 (b1 : Byte)
  /-- B.T2.k2 (R58): leading byte 0xf3, then the low byte of the offset d, whose bits 10 to 8 are 2. -/
  | bT2k2 (b1 : Byte)
  /-- B.T2.k3 (R58): leading byte 0xf4, then the low byte of the offset d, whose bits 10 to 8 are 3. -/
  | bT2k3 (b1 : Byte)
  /-- B.T2.k4 (R58): leading byte 0xf5, then the low byte of the offset d, whose bits 10 to 8 are 4. -/
  | bT2k4 (b1 : Byte)
  /-- B.T2.k5 (R58): leading byte 0xf6, then the low byte of the offset d, whose bits 10 to 8 are 5. -/
  | bT2k5 (b1 : Byte)
  /-- B.T2.k6 (R58): leading byte 0xf7, then the low byte of the offset d, whose bits 10 to 8 are 6. -/
  | bT2k6 (b1 : Byte)
  /-- B.T3 (R59): leading byte 0xf8, then the 16-bit offset d, big-endian. -/
  | bT3 (b1 b2 : Byte)
  /-- B.GEN3 (R60): leading byte 0xf9, then 3 payload bytes, big-endian. -/
  | bGen3 (b1 b2 b3 : Byte)
  /-- B.GEN4 (R60): leading byte 0xfa, then 4 payload bytes, big-endian. -/
  | bGen4 (b1 b2 b3 b4 : Byte)
  /-- B.GEN5 (R60): leading byte 0xfb, then 5 payload bytes, big-endian. -/
  | bGen5 (b1 b2 b3 b4 b5 : Byte)
  /-- B.GEN6 (R60): leading byte 0xfc, then 6 payload bytes, big-endian. -/
  | bGen6 (b1 b2 b3 b4 b5 b6 : Byte)
  /-- B.GEN7 (R60): leading byte 0xfd, then 7 payload bytes, big-endian. -/
  | bGen7 (b1 b2 b3 b4 b5 b6 b7 : Byte)
  /-- B.GEN8 (R60): leading byte 0xfe, then 8 payload bytes, big-endian. -/
  | bGen8 (b1 b2 b3 b4 b5 b6 b7 b8 : Byte)
  /-- B.SENTINEL (R62): the reserved leading byte 0xff. -/
  | bSentinel
  /-- ENCODE (R69, R80): write the encoding of `v` to the sink. -/
  | encode (v : Word)
  /-- DECODE (R69, R110): read one encoded value from the source. -/
  | decode
  deriving DecidableEq, Repr

end Sys2Proof
end

