-- ==== Sys2Proof/WellFormed.lean ====
section
/-! DEFINITION. Which instructions are well formed: a form must be one of the instance's variant, and the byte of a DIRECT
row must lie in that row (30_encoding.md R51, R54, R57, R72). Every payload byte and every 64-bit operand is legal
(R65, R100), so nothing else is checked. -/

namespace Sys2Proof

/-- Which forms exist depends on `VARIANT` (R51); the two operations exist in both. -/
def Instr.formOf (x : Variant) : Instr → Bool
  | .aDirect0 _ | .aDirect1 _ | .aDirect2 _ | .aDirect3 _ | .aDirect4 _ | .aDirect5 _ | .aDirect6 _ | .aGen1 _
  | .aGen2 _ _ | .aGen3 _ _ _ | .aGen4 _ _ _ _ | .aGen5 _ _ _ _ _ | .aGen6 _ _ _ _ _ _ | .aGen7 _ _ _ _ _ _ _
  | .aGen8 _ _ _ _ _ _ _ _ | .aSentinel => x = .a
  | .bDirect0 _ | .bDirect1 _ | .bDirect2 _ | .bDirect3 _ | .bDirect4 _ | .bT2k0 _ | .bT2k1 _ | .bT2k2 _
  | .bT2k3 _ | .bT2k4 _ | .bT2k5 _ | .bT2k6 _ | .bT3 _ _ | .bGen3 _ _ _ | .bGen4 _ _ _ _ | .bGen5 _ _ _ _ _
  | .bGen6 _ _ _ _ _ _ | .bGen7 _ _ _ _ _ _ _ | .bGen8 _ _ _ _ _ _ _ _ | .bSentinel => x = .b
  | .encode _ | .decode => true

/-- The byte of a DIRECT row lies in the row: `byte0 & mask = match` of spec/opcode_table.json (R72), the ranges of
R54 and R57 cut into aligned blocks. -/
def Instr.operandsOk : Instr → Bool
  | .aDirect0 b0 => b0 &&& 0x80#8 = 0x00#8
  | .aDirect1 b0 => b0 &&& 0xc0#8 = 0x80#8
  | .aDirect2 b0 => b0 &&& 0xe0#8 = 0xc0#8
  | .aDirect3 b0 => b0 &&& 0xf0#8 = 0xe0#8
  | .aDirect4 b0 => b0 &&& 0xfc#8 = 0xf0#8
  | .aDirect5 b0 => b0 &&& 0xfe#8 = 0xf4#8
  | .aDirect6 b0 => b0 &&& 0xff#8 = 0xf6#8
  | .bDirect0 b0 => b0 &&& 0x80#8 = 0x00#8
  | .bDirect1 b0 => b0 &&& 0xc0#8 = 0x80#8
  | .bDirect2 b0 => b0 &&& 0xe0#8 = 0xc0#8
  | .bDirect3 b0 => b0 &&& 0xf0#8 = 0xe0#8
  | .bDirect4 b0 => b0 &&& 0xff#8 = 0xf0#8
  | .aGen1 _ | .aGen2 _ _ | .aGen3 _ _ _ | .aGen4 _ _ _ _ | .aGen5 _ _ _ _ _ | .aGen6 _ _ _ _ _ _
  | .aGen7 _ _ _ _ _ _ _ | .aGen8 _ _ _ _ _ _ _ _ | .aSentinel | .bT2k0 _ | .bT2k1 _ | .bT2k2 _ | .bT2k3 _
  | .bT2k4 _ | .bT2k5 _ | .bT2k6 _ | .bT3 _ _ | .bGen3 _ _ _ | .bGen4 _ _ _ _ | .bGen5 _ _ _ _ _
  | .bGen6 _ _ _ _ _ _ | .bGen7 _ _ _ _ _ _ _ | .bGen8 _ _ _ _ _ _ _ _ | .bSentinel | .encode _ | .decode => true

/-- A well-formed instruction of an instance of variant `x`. -/
def WellFormed (x : Variant) (i : Instr) : Bool := i.formOf x && i.operandsOk

/-- The rows that are wire forms: all but the two operations (R69, R72). -/
def Instr.isForm : Instr → Bool
  | .encode _ | .decode => false
  | .aDirect0 _ | .aDirect1 _ | .aDirect2 _ | .aDirect3 _ | .aDirect4 _ | .aDirect5 _ | .aDirect6 _ | .aGen1 _
  | .aGen2 _ _ | .aGen3 _ _ _ | .aGen4 _ _ _ _ | .aGen5 _ _ _ _ _ | .aGen6 _ _ _ _ _ _ | .aGen7 _ _ _ _ _ _ _
  | .aGen8 _ _ _ _ _ _ _ _ | .aSentinel | .bDirect0 _ | .bDirect1 _ | .bDirect2 _ | .bDirect3 _ | .bDirect4 _
  | .bT2k0 _ | .bT2k1 _ | .bT2k2 _ | .bT2k3 _ | .bT2k4 _ | .bT2k5 _ | .bT2k6 _ | .bT3 _ _ | .bGen3 _ _ _
  | .bGen4 _ _ _ _ | .bGen5 _ _ _ _ _ | .bGen6 _ _ _ _ _ _ | .bGen7 _ _ _ _ _ _ _ | .bGen8 _ _ _ _ _ _ _ _
  | .bSentinel => true

end Sys2Proof
end

