-- ==== Sys2Proof/Decode.lean ====
section
/-! DEFINITION. Decoding an encoded value from the bytes of a stream (30_encoding.md R50 to R60, R66, R72), decoding a
command code (R69), and after them the encoder, written from the same tables.

Decoding is total: every byte sequence gives an instruction with the bytes behind it, or a named error. No leading byte is
refused: 0x00 to 0xfe start a form and 0xff is the sentinel row (R65, R62). -/

namespace Sys2Proof

/-- Why a code is no whole instruction. -/
inductive DecodeError where
  /-- There is no leading byte. -/
  | empty
  /-- There are fewer bytes than the leading byte demands (R66). -/
  | truncated
  /-- Bytes stand behind a single value's encoding (R68). -/
  | trailing
  /-- The ENCODE command has no operand (R69). -/
  | missingOperand
  /-- The DECODE command has an operand (R69). -/
  | unexpectedOperand
  deriving DecidableEq, Repr

/-- What decoding a form answers: the instruction and the bytes that follow it, or an error. -/
abbrev FormResult := Except DecodeError (Instr × List Byte)

/-- The rows of variant A of spec/opcode_table.json: the leading byte alone selects the row and the length
(R53, R66); the bytes after the form are handed back. -/
def decodeFormA : List Byte → FormResult
  | [] => .error .empty
  | L :: t =>
    if L &&& 0x80#8 = 0x00#8 then .ok (.aDirect0 L, t)
    else if L &&& 0xc0#8 = 0x80#8 then .ok (.aDirect1 L, t)
    else if L &&& 0xe0#8 = 0xc0#8 then .ok (.aDirect2 L, t)
    else if L &&& 0xf0#8 = 0xe0#8 then .ok (.aDirect3 L, t)
    else if L &&& 0xfc#8 = 0xf0#8 then .ok (.aDirect4 L, t)
    else if L &&& 0xfe#8 = 0xf4#8 then .ok (.aDirect5 L, t)
    else if L &&& 0xff#8 = 0xf6#8 then .ok (.aDirect6 L, t)
    else if L = 0xf7#8 then match t with
      | b1 :: r => .ok (.aGen1 b1, r)
      | _ => .error .truncated
    else if L = 0xf8#8 then match t with
      | b1 :: b2 :: r => .ok (.aGen2 b1 b2, r)
      | _ => .error .truncated
    else if L = 0xf9#8 then match t with
      | b1 :: b2 :: b3 :: r => .ok (.aGen3 b1 b2 b3, r)
      | _ => .error .truncated
    else if L = 0xfa#8 then match t with
      | b1 :: b2 :: b3 :: b4 :: r => .ok (.aGen4 b1 b2 b3 b4, r)
      | _ => .error .truncated
    else if L = 0xfb#8 then match t with
      | b1 :: b2 :: b3 :: b4 :: b5 :: r => .ok (.aGen5 b1 b2 b3 b4 b5, r)
      | _ => .error .truncated
    else if L = 0xfc#8 then match t with
      | b1 :: b2 :: b3 :: b4 :: b5 :: b6 :: r => .ok (.aGen6 b1 b2 b3 b4 b5 b6, r)
      | _ => .error .truncated
    else if L = 0xfd#8 then match t with
      | b1 :: b2 :: b3 :: b4 :: b5 :: b6 :: b7 :: r => .ok (.aGen7 b1 b2 b3 b4 b5 b6 b7, r)
      | _ => .error .truncated
    else if L = 0xfe#8 then match t with
      | b1 :: b2 :: b3 :: b4 :: b5 :: b6 :: b7 :: b8 :: r => .ok (.aGen8 b1 b2 b3 b4 b5 b6 b7 b8, r)
      | _ => .error .truncated
    else .ok (.aSentinel, t)

/-- The rows of variant B of spec/opcode_table.json: the leading byte alone selects the row and the length
(R56, R66); the bytes after the form are handed back. -/
def decodeFormB : List Byte → FormResult
  | [] => .error .empty
  | L :: t =>
    if L &&& 0x80#8 = 0x00#8 then .ok (.bDirect0 L, t)
    else if L &&& 0xc0#8 = 0x80#8 then .ok (.bDirect1 L, t)
    else if L &&& 0xe0#8 = 0xc0#8 then .ok (.bDirect2 L, t)
    else if L &&& 0xf0#8 = 0xe0#8 then .ok (.bDirect3 L, t)
    else if L &&& 0xff#8 = 0xf0#8 then .ok (.bDirect4 L, t)
    else if L = 0xf1#8 then match t with | b1 :: r => .ok (.bT2k0 b1, r) | _ => .error .truncated
    else if L = 0xf2#8 then match t with | b1 :: r => .ok (.bT2k1 b1, r) | _ => .error .truncated
    else if L = 0xf3#8 then match t with | b1 :: r => .ok (.bT2k2 b1, r) | _ => .error .truncated
    else if L = 0xf4#8 then match t with | b1 :: r => .ok (.bT2k3 b1, r) | _ => .error .truncated
    else if L = 0xf5#8 then match t with | b1 :: r => .ok (.bT2k4 b1, r) | _ => .error .truncated
    else if L = 0xf6#8 then match t with | b1 :: r => .ok (.bT2k5 b1, r) | _ => .error .truncated
    else if L = 0xf7#8 then match t with | b1 :: r => .ok (.bT2k6 b1, r) | _ => .error .truncated
    else if L = 0xf8#8 then match t with | b1 :: b2 :: r => .ok (.bT3 b1 b2, r) | _ => .error .truncated
    else if L = 0xf9#8 then match t with
      | b1 :: b2 :: b3 :: r => .ok (.bGen3 b1 b2 b3, r)
      | _ => .error .truncated
    else if L = 0xfa#8 then match t with
      | b1 :: b2 :: b3 :: b4 :: r => .ok (.bGen4 b1 b2 b3 b4, r)
      | _ => .error .truncated
    else if L = 0xfb#8 then match t with
      | b1 :: b2 :: b3 :: b4 :: b5 :: r => .ok (.bGen5 b1 b2 b3 b4 b5, r)
      | _ => .error .truncated
    else if L = 0xfc#8 then match t with
      | b1 :: b2 :: b3 :: b4 :: b5 :: b6 :: r => .ok (.bGen6 b1 b2 b3 b4 b5 b6, r)
      | _ => .error .truncated
    else if L = 0xfd#8 then match t with
      | b1 :: b2 :: b3 :: b4 :: b5 :: b6 :: b7 :: r => .ok (.bGen7 b1 b2 b3 b4 b5 b6 b7, r)
      | _ => .error .truncated
    else if L = 0xfe#8 then match t with
      | b1 :: b2 :: b3 :: b4 :: b5 :: b6 :: b7 :: b8 :: r => .ok (.bGen8 b1 b2 b3 b4 b5 b6 b7 b8, r)
      | _ => .error .truncated
    else .ok (.bSentinel, t)

/-- The decoder of an instance of variant `x` (R51, R67). -/
def decodeForm : Variant → List Byte → FormResult
  | .a => decodeFormA
  | .b => decodeFormB

/-- The code of an instruction: the bytes of an encoded value, or a command's model-level tag with its operand. The tags
`ENCODE = 0` and `DECODE = 1` are no signal of the hardware (R69, D14; log 18). -/
inductive Code where
  | value (bs : List Byte)
  | command (tag : BitVec 1) (operand : Option Word)
  deriving DecidableEq, Repr

/-- The command a tag and an operand stand for (R69). -/
def decodeCommand (tag : BitVec 1) (operand : Option Word) : Except DecodeError Instr :=
  if tag = 0#1 then
    match operand with
    | some v => .ok (.encode v)
    | none => .error .missingOperand
  else
    match operand with
    | none => .ok .decode
    | some _ => .error .unexpectedOperand

/-- The instruction a whole code stands for in an instance of variant `x`. -/
def decode (x : Variant) : Code → Except DecodeError Instr
  | .value bs =>
    match decodeForm x bs with
    | .ok (i, []) => .ok i
    | .ok (_, _ :: _) => .error .trailing
    | .error e => .error e
  | .command tag operand => decodeCommand tag operand

/-- The bytes of a wire form, leading byte first, payload in stream order (R35, R50, R53, R56). A command has none. -/
def Instr.bytes : Instr → List Byte
  | .aDirect0 b0 | .aDirect1 b0 | .aDirect2 b0 | .aDirect3 b0 | .aDirect4 b0 | .aDirect5 b0 | .aDirect6 b0 => [b0]
  | .aGen1 b1 => [0xf7#8, b1]
  | .aGen2 b1 b2 => [0xf8#8, b1, b2]
  | .aGen3 b1 b2 b3 => [0xf9#8, b1, b2, b3]
  | .aGen4 b1 b2 b3 b4 => [0xfa#8, b1, b2, b3, b4]
  | .aGen5 b1 b2 b3 b4 b5 => [0xfb#8, b1, b2, b3, b4, b5]
  | .aGen6 b1 b2 b3 b4 b5 b6 => [0xfc#8, b1, b2, b3, b4, b5, b6]
  | .aGen7 b1 b2 b3 b4 b5 b6 b7 => [0xfd#8, b1, b2, b3, b4, b5, b6, b7]
  | .aGen8 b1 b2 b3 b4 b5 b6 b7 b8 => [0xfe#8, b1, b2, b3, b4, b5, b6, b7, b8]
  | .aSentinel => [0xff#8]
  | .bDirect0 b0 | .bDirect1 b0 | .bDirect2 b0 | .bDirect3 b0 | .bDirect4 b0 => [b0]
  | .bT2k0 b1 => [0xf1#8, b1]
  | .bT2k1 b1 => [0xf2#8, b1]
  | .bT2k2 b1 => [0xf3#8, b1]
  | .bT2k3 b1 => [0xf4#8, b1]
  | .bT2k4 b1 => [0xf5#8, b1]
  | .bT2k5 b1 => [0xf6#8, b1]
  | .bT2k6 b1 => [0xf7#8, b1]
  | .bT3 b1 b2 => [0xf8#8, b1, b2]
  | .bGen3 b1 b2 b3 => [0xf9#8, b1, b2, b3]
  | .bGen4 b1 b2 b3 b4 => [0xfa#8, b1, b2, b3, b4]
  | .bGen5 b1 b2 b3 b4 b5 => [0xfb#8, b1, b2, b3, b4, b5]
  | .bGen6 b1 b2 b3 b4 b5 b6 => [0xfc#8, b1, b2, b3, b4, b5, b6]
  | .bGen7 b1 b2 b3 b4 b5 b6 b7 => [0xfd#8, b1, b2, b3, b4, b5, b6, b7]
  | .bGen8 b1 b2 b3 b4 b5 b6 b7 b8 => [0xfe#8, b1, b2, b3, b4, b5, b6, b7, b8]
  | .bSentinel => [0xff#8]
  | .encode _ | .decode => []

/-- The tag and the operand of a command; a wire form is no command (R69). -/
def Instr.command : Instr → Option (BitVec 1 × Option Word)
  | .encode v => some (0#1, some v)
  | .decode => some (1#1, none)
  | .aDirect0 _ | .aDirect1 _ | .aDirect2 _ | .aDirect3 _ | .aDirect4 _ | .aDirect5 _ | .aDirect6 _ | .aGen1 _
  | .aGen2 _ _ | .aGen3 _ _ _ | .aGen4 _ _ _ _ | .aGen5 _ _ _ _ _ | .aGen6 _ _ _ _ _ _ | .aGen7 _ _ _ _ _ _ _
  | .aGen8 _ _ _ _ _ _ _ _ | .aSentinel | .bDirect0 _ | .bDirect1 _ | .bDirect2 _ | .bDirect3 _ | .bDirect4 _
  | .bT2k0 _ | .bT2k1 _ | .bT2k2 _ | .bT2k3 _ | .bT2k4 _ | .bT2k5 _ | .bT2k6 _ | .bT3 _ _ | .bGen3 _ _ _
  | .bGen4 _ _ _ _ | .bGen5 _ _ _ _ _ | .bGen6 _ _ _ _ _ _ | .bGen7 _ _ _ _ _ _ _ | .bGen8 _ _ _ _ _ _ _ _
  | .bSentinel => none

/-- The encoder: the code of an instruction. -/
def encode (i : Instr) : Code :=
  match i.command with
  | some (tag, operand) => .command tag operand
  | none => .value i.bytes

/-- The nine bytes of a table word of `nbits` bits, the first byte in bits 7 to 0; the bits above `nbits` are 0. Nine bytes
are the longest encoded value (R4). -/
def tableBytes (nbits w : Nat) : List Byte :=
  (List.range 9).map fun k => BitVec.ofNat 8 ((w % 2 ^ nbits) >>> (8 * k))

/-- The instruction an instance of variant `x` reads from a table word. -/
def decodeWordOf (x : Variant) (nbits w : Nat) : Option Instr :=
  match decodeForm x (tableBytes nbits w) with
  | .ok (i, _) => some i
  | .error _ => none

/-- The instruction the decoder of `State.reset`'s variant reads from a table word (log 2, log 18): the words of the
variant-B rows and the two tags are also words of variant-A rows, since the table's rows overlap across variants. -/
def decodeTableWord (nbits w : Nat) : Option Instr := decodeWordOf Config.resetVariant nbits w

/-- One row of spec/opcode_table.json for a wire form: mask and match on the leading byte, the range of leading bytes, the
length of the whole encoding (R72). -/
structure FormRow where
  mnemonic : String
  mask : Byte
  pattern : Byte
  leadLo : Byte
  leadHi : Byte
  length : Nat
  deriving DecidableEq, Repr

/-- Whether a row covers a leading byte: `L & mask = match` (R72). -/
def FormRow.covers (r : FormRow) (L : Byte) : Bool := L &&& r.mask = r.pattern

/-- The rows of one variant, in the table's order. -/
def formRows : Variant → List FormRow
  | .a => [
      ⟨"A.DIRECT.0", 0x80, 0x00, 0x00, 0x7f, 1⟩, ⟨"A.DIRECT.1", 0xc0, 0x80, 0x80, 0xbf, 1⟩,
      ⟨"A.DIRECT.2", 0xe0, 0xc0, 0xc0, 0xdf, 1⟩, ⟨"A.DIRECT.3", 0xf0, 0xe0, 0xe0, 0xef, 1⟩,
      ⟨"A.DIRECT.4", 0xfc, 0xf0, 0xf0, 0xf3, 1⟩, ⟨"A.DIRECT.5", 0xfe, 0xf4, 0xf4, 0xf5, 1⟩,
      ⟨"A.DIRECT.6", 0xff, 0xf6, 0xf6, 0xf6, 1⟩, ⟨"A.GEN1", 0xff, 0xf7, 0xf7, 0xf7, 2⟩,
      ⟨"A.GEN2", 0xff, 0xf8, 0xf8, 0xf8, 3⟩, ⟨"A.GEN3", 0xff, 0xf9, 0xf9, 0xf9, 4⟩,
      ⟨"A.GEN4", 0xff, 0xfa, 0xfa, 0xfa, 5⟩, ⟨"A.GEN5", 0xff, 0xfb, 0xfb, 0xfb, 6⟩,
      ⟨"A.GEN6", 0xff, 0xfc, 0xfc, 0xfc, 7⟩, ⟨"A.GEN7", 0xff, 0xfd, 0xfd, 0xfd, 8⟩,
      ⟨"A.GEN8", 0xff, 0xfe, 0xfe, 0xfe, 9⟩, ⟨"A.SENTINEL", 0xff, 0xff, 0xff, 0xff, 1⟩]
  | .b => [
      ⟨"B.DIRECT.0", 0x80, 0x00, 0x00, 0x7f, 1⟩, ⟨"B.DIRECT.1", 0xc0, 0x80, 0x80, 0xbf, 1⟩,
      ⟨"B.DIRECT.2", 0xe0, 0xc0, 0xc0, 0xdf, 1⟩, ⟨"B.DIRECT.3", 0xf0, 0xe0, 0xe0, 0xef, 1⟩,
      ⟨"B.DIRECT.4", 0xff, 0xf0, 0xf0, 0xf0, 1⟩, ⟨"B.T2.k0", 0xff, 0xf1, 0xf1, 0xf1, 2⟩,
      ⟨"B.T2.k1", 0xff, 0xf2, 0xf2, 0xf2, 2⟩, ⟨"B.T2.k2", 0xff, 0xf3, 0xf3, 0xf3, 2⟩,
      ⟨"B.T2.k3", 0xff, 0xf4, 0xf4, 0xf4, 2⟩, ⟨"B.T2.k4", 0xff, 0xf5, 0xf5, 0xf5, 2⟩,
      ⟨"B.T2.k5", 0xff, 0xf6, 0xf6, 0xf6, 2⟩, ⟨"B.T2.k6", 0xff, 0xf7, 0xf7, 0xf7, 2⟩,
      ⟨"B.T3", 0xff, 0xf8, 0xf8, 0xf8, 3⟩, ⟨"B.GEN3", 0xff, 0xf9, 0xf9, 0xf9, 4⟩,
      ⟨"B.GEN4", 0xff, 0xfa, 0xfa, 0xfa, 5⟩, ⟨"B.GEN5", 0xff, 0xfb, 0xfb, 0xfb, 6⟩,
      ⟨"B.GEN6", 0xff, 0xfc, 0xfc, 0xfc, 7⟩, ⟨"B.GEN7", 0xff, 0xfd, 0xfd, 0xfd, 8⟩,
      ⟨"B.GEN8", 0xff, 0xfe, 0xfe, 0xfe, 9⟩, ⟨"B.SENTINEL", 0xff, 0xff, 0xff, 0xff, 1⟩]

/-- The row of spec/opcode_table.json a wire form stands for; the two operations have none here. -/
def Instr.mnemonic : Instr → String
  | .aDirect0 _ => "A.DIRECT.0"
  | .aDirect1 _ => "A.DIRECT.1"
  | .aDirect2 _ => "A.DIRECT.2"
  | .aDirect3 _ => "A.DIRECT.3"
  | .aDirect4 _ => "A.DIRECT.4"
  | .aDirect5 _ => "A.DIRECT.5"
  | .aDirect6 _ => "A.DIRECT.6"
  | .aGen1 _ => "A.GEN1"
  | .aGen2 _ _ => "A.GEN2"
  | .aGen3 _ _ _ => "A.GEN3"
  | .aGen4 _ _ _ _ => "A.GEN4"
  | .aGen5 _ _ _ _ _ => "A.GEN5"
  | .aGen6 _ _ _ _ _ _ => "A.GEN6"
  | .aGen7 _ _ _ _ _ _ _ => "A.GEN7"
  | .aGen8 _ _ _ _ _ _ _ _ => "A.GEN8"
  | .aSentinel => "A.SENTINEL"
  | .bDirect0 _ => "B.DIRECT.0"
  | .bDirect1 _ => "B.DIRECT.1"
  | .bDirect2 _ => "B.DIRECT.2"
  | .bDirect3 _ => "B.DIRECT.3"
  | .bDirect4 _ => "B.DIRECT.4"
  | .bT2k0 _ => "B.T2.k0"
  | .bT2k1 _ => "B.T2.k1"
  | .bT2k2 _ => "B.T2.k2"
  | .bT2k3 _ => "B.T2.k3"
  | .bT2k4 _ => "B.T2.k4"
  | .bT2k5 _ => "B.T2.k5"
  | .bT2k6 _ => "B.T2.k6"
  | .bT3 _ _ => "B.T3"
  | .bGen3 _ _ _ => "B.GEN3"
  | .bGen4 _ _ _ _ => "B.GEN4"
  | .bGen5 _ _ _ _ _ => "B.GEN5"
  | .bGen6 _ _ _ _ _ _ => "B.GEN6"
  | .bGen7 _ _ _ _ _ _ _ => "B.GEN7"
  | .bGen8 _ _ _ _ _ _ _ _ => "B.GEN8"
  | .bSentinel => "B.SENTINEL"
  | .encode _ => "ENCODE"
  | .decode => "DECODE"

end Sys2Proof
end

