-- ==== Sys2Proof/Machine/State.lean ====
section
/-! DEFINITION. The state of one core and of the platform that drives it, and the state after reset.

What changes as the machine runs is `RunState`: the core's own fields `enc` and `dec` (10_state.md R12, R13), the
platform's side of the two ports and of the command inputs (20_memory.md R31 to R33), held as plain data so that the step
is one deterministic function (log 8), and `freeCount`, which is the model's (log 4). `VARIANT` is no part of it: it is a
configuration argument of every operation (10_state.md R14). `State` is an instance: a run state and its `VARIANT`
(log 1). -/

namespace Sys2Proof.Machine

open Sys2Proof

/-- Whether an ENCODE is in flight (R12). -/
inductive EncPhase where
  | idle
  | emit
  deriving DecidableEq, Repr

/-- Whether a DECODE is in flight and what it waits for (R13). -/
inductive DecPhase where
  | idle
  | lead
  | payload
  deriving DecidableEq, Repr

/-- The two units (R10). -/
inductive CoreUnit where
  | enc
  | dec
  deriving DecidableEq, Repr

/-- The outcome of an operation (R12, R13, R160); the numbers are `statusCode` (R20). -/
inductive Status where
  | ok
  | ioError
  | truncated
  | outOfRange
  deriving DecidableEq, Repr

/-- The state of ENC (R12). `status` is `none` exactly where the spec says that the field holds no value: while `done`
is 0 (R19; log 12). -/
structure Enc where
  phase : EncPhase
  value : Word
  idx : BitVec 4
  done : Bool
  status : Option Status
  deriving DecidableEq, Repr

/-- The state of DEC (R13). `status` and `value` are `none` exactly where the spec says that the field holds no value
(R17, R19; log 12). -/
structure Dec where
  phase : DecPhase
  lead : Byte
  acc : Word
  rem : BitVec 4
  done : Bool
  status : Option Status
  value : Option Word
  deriving DecidableEq, Repr

/-- The sink's answer to one transfer (R32). -/
inductive SinkAnswer where
  | ok
  | err
  deriving DecidableEq, Repr

/-- The source's answer to one transfer (R33): a byte, `End`, or `Err`. -/
inductive SrcAnswer where
  | byte (b : Byte)
  | endOfStream
  | err
  deriving DecidableEq, Repr

/-- The fields a platform can observe (R24). -/
inductive ResultField where
  | encDone
  | encStatus
  | decDone
  | decStatus
  | decValue
  | variant
  deriving DecidableEq, Repr

/-- What a platform's read of a field gave it. -/
inductive Observation where
  | done (b : Bool)
  | status (st : Status)
  | value (v : Word)
  | variant (x : Variant)
  deriving DecidableEq, Repr

/-- What a command completed with (R200). -/
inductive Completion where
  | enc (st : Status)
  | dec (st : Status) (value : Option Word)
  deriving DecidableEq, Repr

/-- What the platform does next (log 8): it offers a command (R16, R18), its ports get ready to answer further
transfers (R32, R33), it applies reset (R185, R186), or it reads a result field (R24, R195). -/
inductive Event where
  | encStart (v : Word)
  | decStart
  | sinkReady (answers : List SinkAnswer)
  | sourceReady (answers : List SrcAnswer)
  /-- `inFlight` is the byte the source was delivering when reset arrived, if any (R186; log 5). -/
  | reset (inFlight : Option Byte)
  | read (f : ResultField)
  deriving DecidableEq, Repr

/-- All that changes as a core runs with its platform. -/
structure RunState where
  enc : Enc
  dec : Dec
  /-- The bytes the sink has accepted, first byte first (R31, R32). -/
  sink : List Byte
  /-- The answers the sink is ready to give, the next one first; none: it has not answered (R32, R101). -/
  sinkAnswers : List SinkAnswer
  /-- The answers the source is ready to give, the next one first; none: it has not answered (R33, R130). -/
  source : List SrcAnswer
  /-- `src_pos`, the number of bytes the source has delivered (R31). -/
  srcPos : Nat
  /-- What the platform does next, in order. -/
  events : List Event
  /-- What the completed commands ended with, oldest first (R200). -/
  results : List Completion
  /-- What the platform has read, oldest first (R24). -/
  observed : List Observation
  /-- The model's own counter of free values (log 4). -/
  freeCount : Nat
  deriving DecidableEq, Repr

/-- An instance of the core: its run state and its configuration. -/
structure State extends run : RunState where
  /-- `VARIANT`, the configuration argument of the instance (R14). The operations take it as an argument and give back a
  run state, so that none can write it; it stands here because the host's step takes one argument (log 1). -/
  variant : Variant
  deriving DecidableEq, Repr

/-- Why the machine stops. None is a stop of an instruction's own (60_exceptions.md R165: "Nothing else fails"). -/
inductive Fault where
  /-- Raised by the platform's read of a result field that holds no value (R19: "a model treats such a read as a fault of
  the platform"). Safe: the hardware gives unspecified bits and goes on. -/
  | unspecifiedRead (f : ResultField)
  /-- Raised by the packer's step outside its precondition `0 <= ENC.idx < len(encode(ENC.value))` (R97, R148), which no
  run reaches. Safe. -/
  | packerIndexOutOfRange
  /-- Raised by the payload step outside its precondition `1 <= DEC.rem <= 8` (R122), which no run reaches. Safe. -/
  | payloadCountOutOfRange
  deriving DecidableEq, Repr

/-- Why there is no meaning. No meaning of this model raises one: every instruction is modelled. -/
inductive Refusal where
  /-- Raised by `exec` for an instruction without a meaning; no arm does. Safe. -/
  | notModelled (mnemonic : String)
  deriving DecidableEq, Repr

/-- The state of a core of variant `x` after reset (R27, R185): both units IDLE, both `done` 0, `DEC.value` without value,
both statuses without value (R19), no byte on the sink and nothing pending at the ports. The in-flight fields that R27
calls unspecified are 0 here: DESIGN CHOICE (log 3), unsafe. A reset in the middle of a run is `resetCore` (Ops.lean), which leaves them free. -/
def State.resetOf (x : Variant) : State where
  variant := x
  enc := { phase := .idle, value := 0, idx := 0, done := false, status := none }
  dec := { phase := .idle, lead := 0, acc := 0, rem := 0, done := false, status := none, value := none }
  sink := []
  sinkAnswers := []
  source := []
  srcPos := 0
  events := []
  results := []
  observed := []
  freeCount := 0

/-- The machine right after reset; its variant is `Config.resetVariant` (log 2). -/
def State.reset : State := State.resetOf Config.resetVariant

end Sys2Proof.Machine
end

