-- ==== Sys2Proof/Machine/Operands.lean ====
section
/-! DEFINITION. The pure functions of the codec: byte order (00_scope.md R7, R8), the width selector and the encoding
functions (40_encoder.md R82 to R96), the leading-byte parser, the bases and the decoding function (41_decoder.md R113,
R114, R128), the length of an encoded value (30_encoding.md R52).

Integers are natural numbers here, narrowed where a byte or a field is written: no operation of the rules wraps (R148,
R150, U16; log 21). -/

namespace Sys2Proof.Machine

open Sys2Proof

/-- The minimal big-endian width (R7, R82): the least number of bytes that hold `v`; 0 for 0 (D15). -/
def bewidth (v : Nat) : Nat :=
  if v = 0 then 0
  else if v < 2 ^ 8 then 1
  else if v < 2 ^ 16 then 2
  else if v < 2 ^ 24 then 3
  else if v < 2 ^ 32 then 4
  else if v < 2 ^ 40 then 5
  else if v < 2 ^ 48 then 6
  else if v < 2 ^ 56 then 7
  else 8

/-- `be(v, w)`: the `w` low-order bytes of `v`, the most significant of them first (R7, R34). -/
def be (v : Nat) : Nat → List Byte
  | 0 => []
  | w + 1 => BitVec.ofNat 8 (v / 256 ^ w) :: be v w

/-- `beval(s)`: the unsigned big-endian reading of a byte sequence (R7). -/
def beval : List Byte → Nat
  | [] => 0
  | b :: s => b.toNat * 256 ^ s.length + beval s

/-- `encode_A` (R88): DIRECT up to 0xf6 (R84), the general form above (R85). -/
def encodeA (v : Word) : List Byte :=
  let n := v.toNat
  if n ≤ 0xf6 then [BitVec.ofNat 8 n]
  else BitVec.ofNat 8 (0xf6 + bewidth n) :: be n (bewidth n)

/-- `encode_B` (R95): DIRECT (R90), the dense tiers T2 (R91) and T3 (R92), the general form (R93). -/
def encodeB (v : Word) : List Byte :=
  let n := v.toNat
  if n ≤ 0xf0 then [BitVec.ofNat 8 n]
  else if n ≤ 0x7ef then [BitVec.ofNat 8 (0xf1 + (n - 0xf0) / 256), BitVec.ofNat 8 ((n - 0xf0) % 256)]
  else if n ≤ 0x107ef then 0xf8#8 :: be (n - 0x7f0) 2
  else BitVec.ofNat 8 (0xf6 + bewidth n) :: be n (bewidth n)

/-- `encode(v)`: the encoding function of the instance's variant (R96). -/
def encodeValue : Variant → Word → List Byte
  | .a => encodeA
  | .b => encodeB

/-- `elen(v)`, the encoded length, by its own formula (R96). -/
def encodedLength (x : Variant) (v : Word) : Nat :=
  let n := v.toNat
  match x with
  | .a => if n ≤ 0xf6 then 1 else 1 + bewidth n
  | .b => if n ≤ 0xf0 then 1 else if n ≤ 0x7ef then 2 else if n ≤ 0x107ef then 3 else 1 + bewidth n

/-- The multi-byte classes (R112). -/
inductive MultiKind where
  | t2
  | t3
  | gen
  deriving DecidableEq, Repr

/-- What the leading-byte parser answers (R111, R112): the direct form, the sentinel, or a multi-byte class with its
number `n` of payload bytes and its initial accumulator `acc0`. -/
inductive LeadClass where
  | direct
  | sentinel
  | multi (kind : MultiKind) (n : Nat) (acc0 : Nat)
  deriving DecidableEq, Repr

/-- `classify_A` (R113). -/
def classifyA (L : Byte) : LeadClass :=
  let l := L.toNat
  if l ≤ 0xf6 then .direct
  else if l ≤ 0xfe then .multi .gen (l - 0xf6) 0
  else .sentinel

/-- `classify_B` (R114). -/
def classifyB (L : Byte) : LeadClass :=
  let l := L.toNat
  if l ≤ 0xf0 then .direct
  else if l ≤ 0xf7 then .multi .t2 1 (l - 0xf1)
  else if l = 0xf8 then .multi .t3 2 0
  else if l ≤ 0xfe then .multi .gen (l - 0xf6) 0
  else .sentinel

/-- The leading-byte parser of the instance's variant. -/
def classify : Variant → Byte → LeadClass
  | .a => classifyA
  | .b => classifyB

/-- `base_A` and `base_B`, the constant added back (R61, R113, R114; C5). -/
def base (x : Variant) (L : Byte) : Nat :=
  match x with
  | .a => 0
  | .b => if 0xf1 ≤ L.toNat ∧ L.toNat ≤ 0xf7 then 0xf0 else if L.toNat = 0xf8 then 0x7f0 else 0

/-- `len(L)`, the length the leading byte announces; the sentinel has none (R52). -/
def leadLength (x : Variant) (L : Byte) : Option Nat :=
  let l := L.toNat
  match x with
  | .a => if l ≤ 0xf6 then some 1 else if l ≤ 0xfe then some (1 + (l - 0xf6)) else none
  | .b =>
    if l ≤ 0xf0 then some 1 else if l ≤ 0xf7 then some 2 else if l = 0xf8 then some 3
    else if l ≤ 0xfe then some (1 + (l - 0xf6)) else none

/-- `decode(s)` (R128): the status, the value if there is one, and the number of bytes consumed, for a source that
delivers the bytes `s` and then answers `End`. -/
def decodeBytes (x : Variant) : List Byte → Status × Option Word × Nat
  | [] => (.truncated, none, 0)
  | L :: t =>
    match classify x L with
    | .direct => (.ok, some (L.setWidth 64), 1)
    | .sentinel => (.outOfRange, none, 1)
    | .multi _ n acc0 =>
      if t.length < n then (.truncated, none, 1 + t.length)
      else (.ok, some (BitVec.ofNat 64 (base x L + acc0 * 256 ^ n + beval (t.take n))), 1 + n)

/-- The lexicographic order of byte sequences (R8): unsigned bytes at the first difference; a proper initial part is
smaller. Supplied from general knowledge by the spec itself (G1; log 24). -/
def lexLt : List Byte → List Byte → Bool
  | _, [] => false
  | [], _ :: _ => true
  | a :: s, b :: t => a.toNat < b.toNat || (a = b && lexLt s t)

end Sys2Proof.Machine
end

