-- ==== Sys2Proof/Machine/Flags.lean ====
section
/-! DEFINITION. The flag-like state (10_state.md R23): the codes of the statuses and phases, and the platform's read of a
result field, which is valid only when the field holds a value (R19, R195). -/

namespace Sys2Proof.Machine

open Sys2Proof

/-- The status code numbers (R20). -/
def statusCode : Status → BitVec 2
  | .ok => 0#2
  | .ioError => 1#2
  | .truncated => 2#2
  | .outOfRange => 3#2

/-- The status two bits stand for (R20): every code is a status. -/
def statusOfCode (c : BitVec 2) : Status :=
  if c = 0#2 then .ok else if c = 1#2 then .ioError else if c = 2#2 then .truncated else .outOfRange

/-- The number of ENC's phase (R12). -/
def encPhaseCode : EncPhase → BitVec 1
  | .idle => 0#1
  | .emit => 1#1

/-- The number of DEC's phase (R13); 3 is never produced (R24). -/
def decPhaseCode : DecPhase → BitVec 2
  | .idle => 0#2
  | .lead => 1#2
  | .payload => 2#2

/-- What a read of a result field gives in an instance of variant `x`; `none` where the field holds no value (R19, R195):
a status while its `done` is 0, and `DEC.value` unless `DEC.done` is 1 and `DEC.status` is OK. -/
def readField (x : Variant) (f : ResultField) (s : RunState) : Option Observation :=
  match f with
  | .encDone => some (.done s.enc.done)
  | .encStatus => if s.enc.done then s.enc.status.map .status else none
  | .decDone => some (.done s.dec.done)
  | .decStatus => if s.dec.done then s.dec.status.map .status else none
  | .decValue => if s.dec.done && s.dec.status = some .ok then s.dec.value.map .value else none
  | .variant => some (.variant x)

/-- The platform reads a result field: the read changes nothing in the core (R24); a read of a field that holds no value
is the platform's fault (R19, U4; log 13). -/
def observe (x : Variant) (f : ResultField) (s : RunState) : Host.Outcome RunState Fault Refusal :=
  match readField x f s with
  | some o => .next { s with observed := s.observed ++ [o] }
  | none => .fault (.unspecifiedRead f)

end Sys2Proof.Machine
end

