-- ==== Sys2Proof/Machine/Ops.lean ====
section
/-! DEFINITION. The named operations of the two units: start, completion, one transfer, a run of transfers, reset.

`encComplete`, `decCompleteOk` and `decCompleteError` are the whole of what this hardware has for taking an exception
(60_exceptions.md R168): the unit writes its status, sets `done` and returns to IDLE in the step in which the cause was
met. There is no return from one: the unit then accepts the next command (R170). -/

namespace Sys2Proof.Machine

open Sys2Proof

/-- An operation of the machine performed by an instance: it is given `VARIANT` as its argument and answers a run state,
so no operation can change `VARIANT` (R14; log 1). -/
def perform (op : Variant → RunState → Host.Outcome RunState Fault Refusal) (s : State) :
    Host.Outcome State Fault Refusal :=
  match op s.variant s.run with
  | .next t => .next { s with run := t }
  | .fault e => .fault e
  | .refused r => .refused r

/-- `complete(status)` of ENC (R15); `ENC.value` and `ENC.idx` keep what they held. The platform sees the result (R200). -/
def encComplete (st : Status) (s : RunState) : RunState :=
  { s with
    enc := { s.enc with phase := .idle, done := true, status := some st }
    results := s.results ++ [.enc st] }

/-- `complete(OK, v)` of DEC (R17); `DEC.lead`, `DEC.acc` and `DEC.rem` keep what they held. -/
def decCompleteOk (v : Word) (s : RunState) : RunState :=
  { s with
    dec := { s.dec with phase := .idle, done := true, status := some .ok, value := some v }
    results := s.results ++ [.dec .ok (some v)] }

/-- `complete(st)` of DEC for an error status (R17): `DEC.value` holds no value (R19). -/
def decCompleteError (st : Status) (s : RunState) : RunState :=
  { s with
    dec := { s.dec with phase := .idle, done := true, status := some st, value := none }
    results := s.results ++ [.dec st none] }

/-- `enc_start(v)` accepted (R16). With `done` at 0 the field `ENC.status` holds no value (R19; log 12). -/
def encStart (v : Word) (s : RunState) : RunState :=
  { s with enc := { s.enc with phase := .emit, value := v, idx := 0#4, done := false, status := none } }

/-- `dec_start` accepted (R18). With `done` at 0 the fields `DEC.status` and `DEC.value` hold no value (R13, R19;
log 12). -/
def decStart (s : RunState) : RunState :=
  { s with dec := { s.dec with phase := .lead, done := false, status := none, value := none } }

/-- `SinkWrite(b)` answered `r` (R32): on `Ok` the sink has accepted `b`; on `Err` it has not. -/
def sinkWrite (b : Byte) (r : SinkAnswer) (s : RunState) : RunState :=
  match r with
  | .ok => { s with sink := s.sink ++ [b], sinkAnswers := s.sinkAnswers.tail }
  | .err => { s with sinkAnswers := s.sinkAnswers.tail }

/-- `SrcRead()` answered `r` (R33): a byte is consumed, `End` and `Err` consume none (R40). -/
def srcRead (r : SrcAnswer) (s : RunState) : RunState :=
  match r with
  | .byte _ => { s with source := s.source.tail, srcPos := s.srcPos + 1 }
  | .endOfStream => { s with source := s.source.tail }
  | .err => { s with source := s.source.tail }

/-- The byte ENC presents to the sink: byte number `ENC.idx` of the encoding (R81, R97). -/
def packerByte (x : Variant) (s : RunState) : Option Byte := (encodeValue x s.enc.value)[s.enc.idx.toNat]?

/-- The packer's step (R97) with the sink's answer `r`: the next byte of the encoding is presented; accepted, it is the
last one or the index goes on; on `Err` the operation ends with IO_ERROR (R98). -/
def encTransfer (x : Variant) (r : SinkAnswer) (s : RunState) : Host.Outcome RunState Fault Refusal :=
  match packerByte x s with
  | none => .fault .packerIndexOutOfRange
  | some b =>
    match r with
    | .err => .next (encComplete .ioError (sinkWrite b .err s))
    | .ok =>
      if s.enc.idx.toNat + 1 = (encodeValue x s.enc.value).length then
        .next (encComplete .ok (sinkWrite b .ok s))
      else
        let t := sinkWrite b .ok s
        .next { t with enc := { t.enc with idx := s.enc.idx + 1#4 } }

/-- One operation after another: a fault or a refusal of the first ends it. -/
def andThen {σ : Type} (o : Host.Outcome σ Fault Refusal) (f : σ → Host.Outcome σ Fault Refusal) :
    Host.Outcome σ Fault Refusal :=
  match o with
  | .next t => f t
  | .fault e => .fault e
  | .refused x => .refused x

/-- ENC's transfers for as many answers as the sink gives, until the operation completes (R45, R99); with no further
answer ENC waits in EMIT (R101). -/
def encRun (x : Variant) : List SinkAnswer → RunState → Host.Outcome RunState Fault Refusal
  | [], s => .next s
  | r :: rs, s =>
    match s.enc.phase with
    | .idle => .next s
    | .emit => andThen (encTransfer x r s) (encRun x rs)

/-- The LEAD step (R112) with a byte delivered: the leading-byte parser decides (R113, R114). -/
def leadByte (x : Variant) (L : Byte) (s : RunState) : RunState :=
  match classify x L with
  | .direct => decCompleteOk (L.setWidth 64) s
  | .sentinel => decCompleteError .outOfRange s
  | .multi _ n acc0 =>
    { s with
      dec := { s.dec with phase := .payload, lead := L, acc := BitVec.ofNat 64 acc0, rem := BitVec.ofNat 4 n } }

/-- The PAYLOAD step (R122) with a byte delivered: shifted into the accumulator; after the last one the base is added
(R123). -/
def payloadByte (x : Variant) (b : Byte) (s : RunState) : Host.Outcome RunState Fault Refusal :=
  let a := (s.dec.acc <<< 8) ||| b.setWidth 64
  if s.dec.rem.toNat = 0 ∨ 8 < s.dec.rem.toNat then .fault .payloadCountOutOfRange
  else if s.dec.rem = 1#4 then .next (decCompleteOk (BitVec.ofNat 64 (base x s.dec.lead) + a) s)
  else .next { s with dec := { s.dec with acc := a, rem := s.dec.rem - 1#4 } }

/-- One step of DEC with the source's answer `r` (R112, R122): `End` truncates (R124), `Err` is a transport failure
(R125). An idle DEC reads nothing (R26). -/
def decTransfer (x : Variant) (r : SrcAnswer) (s : RunState) : Host.Outcome RunState Fault Refusal :=
  match s.dec.phase with
  | .idle => .next s
  | .lead =>
    match r with
    | .byte L => .next (leadByte x L (srcRead (.byte L) s))
    | .endOfStream => .next (decCompleteError .truncated (srcRead .endOfStream s))
    | .err => .next (decCompleteError .ioError (srcRead .err s))
  | .payload =>
    match r with
    | .byte b => payloadByte x b (srcRead (.byte b) s)
    | .endOfStream => .next (decCompleteError .truncated (srcRead .endOfStream s))
    | .err => .next (decCompleteError .ioError (srcRead .err s))

/-- DEC's transfers for as many answers as the source gives, until the operation completes (R43, R129); with no further
answer DEC waits (R130). -/
def decRun (x : Variant) : List SrcAnswer → RunState → Host.Outcome RunState Fault Refusal
  | [], s => .next s
  | r :: rs, s => if s.dec.phase = .idle then .next s else andThen (decTransfer x r s) (decRun x rs)

/-- The source delivers the bytes of an encoded value, which stand next on it, to DEC: DEC takes each byte it asks for
and no other (R43, R47). An idle DEC asks for none; a DEC in the middle of a value takes them as payload; a DEC of the
other variant takes them by its own rules (U14) (log 19). -/
def deliver (x : Variant) (bs : List Byte) (s : RunState) : Host.Outcome RunState Fault Refusal := decRun x (bs.map .byte) s

/-- The sink after a reset (R186): the byte of an outstanding transfer may or may not have been accepted (U9; log 5);
what was accepted before stays. -/
def sinkAfterReset (x : Variant) (s : RunState) : List Byte :=
  match s.enc.phase, packerByte x s with
  | .emit, some b => if Config.resetSinkMoved s.freeCount then s.sink ++ [b] else s.sink
  | _, _ => s.sink

/-- The source and its position after a reset (R186): the byte that was being delivered to a DEC in flight may or may not
have been consumed (U9; log 5); one that was not consumed is still to come. -/
def sourceAfterReset (inFlight : Option Byte) (s : RunState) : List SrcAnswer × Nat :=
  match inFlight with
  | none => (s.source, s.srcPos)
  | some b =>
    if s.dec.phase ≠ .idle && Config.resetSourceMoved s.freeCount then (s.source, s.srcPos + 1)
    else (s.source ++ [.byte b], s.srcPos)

/-- Reset (R185, R186): both units IDLE, both `done` 0, the result fields without value (R19); the in-flight fields R27
calls unspecified take free values (log 4); an operation in flight never completes and leaves no result; `VARIANT` and what the ports have
moved stay. -/
def resetCore (x : Variant) (inFlight : Option Byte) (s : RunState) : RunState :=
  { s with
    enc := { phase := .idle, done := false, status := none
             value := Config.freeWord s.freeCount
             idx := (Config.freeWord (s.freeCount + 1)).setWidth 4 }
    dec := { phase := .idle, done := false, status := none, value := none
             lead := (Config.freeWord (s.freeCount + 2)).setWidth 8
             acc := Config.freeWord (s.freeCount + 3)
             rem := (Config.freeWord (s.freeCount + 4)).setWidth 4 }
    sink := sinkAfterReset x s
    source := (sourceAfterReset inFlight s).1
    srcPos := (sourceAfterReset inFlight s).2
    freeCount := s.freeCount + 5 }

/-- `sink_pos`, the number of bytes the sink has accepted (R31). -/
def RunState.sinkPos (s : RunState) : Nat := s.sink.length

/-- The byte at a position of the sink; `none` where the sink has accepted none (R31). -/
def RunState.sinkByte (s : RunState) (pos : Nat) : Option Byte := s.sink[pos]?

/-- The sink as memory cells (position, byte), positions from `pos` on: `SinkWrite(b)` is `MemWrite(sink_pos, 1, b)`
(R9). -/
def cellsFrom (pos : Nat) : List Byte → List Host.Cell
  | [] => []
  | b :: bs => (pos, b) :: cellsFrom (pos + 1) bs

/-- The sink's cells; an unlisted position holds nothing (log 16). -/
def RunState.sinkCells (s : RunState) : List Host.Cell := cellsFrom 0 s.sink

/-- The canonical form of a list of cells: positions strictly rising. -/
def Memory.wf : List Host.Cell → Bool
  | [] => true
  | [_] => true
  | a :: b :: rest => a.1 < b.1 && Memory.wf (b :: rest)

end Sys2Proof.Machine
end

