-- ==== Sys2Proof/Machine/Direct.lean ====
section
/-! DEFINITION. The one-byte forms (41_decoder.md R115, R118): each row's meaning is DEC receiving that encoded value. -/

namespace Sys2Proof.Machine

open Sys2Proof

/-- A.DIRECT.0, leading byte 0x00 to 0x7f (R115): the value is the byte. -/
def execADirect0 (b0 : Byte) (s : State) : Host.Outcome State Fault Refusal :=
  perform (deliver · [b0]) s

/-- A.DIRECT.1, leading byte 0x80 to 0xbf (R115): the value is the byte. -/
def execADirect1 (b0 : Byte) (s : State) : Host.Outcome State Fault Refusal :=
  perform (deliver · [b0]) s

/-- A.DIRECT.2, leading byte 0xc0 to 0xdf (R115): the value is the byte. -/
def execADirect2 (b0 : Byte) (s : State) : Host.Outcome State Fault Refusal :=
  perform (deliver · [b0]) s

/-- A.DIRECT.3, leading byte 0xe0 to 0xef (R115): the value is the byte. -/
def execADirect3 (b0 : Byte) (s : State) : Host.Outcome State Fault Refusal :=
  perform (deliver · [b0]) s

/-- A.DIRECT.4, leading byte 0xf0 to 0xf3 (R115): the value is the byte. -/
def execADirect4 (b0 : Byte) (s : State) : Host.Outcome State Fault Refusal :=
  perform (deliver · [b0]) s

/-- A.DIRECT.5, leading byte 0xf4 to 0xf5 (R115): the value is the byte. -/
def execADirect5 (b0 : Byte) (s : State) : Host.Outcome State Fault Refusal :=
  perform (deliver · [b0]) s

/-- A.DIRECT.6, leading byte 0xf6 to 0xf6 (R115): the value is the byte. -/
def execADirect6 (b0 : Byte) (s : State) : Host.Outcome State Fault Refusal :=
  perform (deliver · [b0]) s

/-- B.DIRECT.0, leading byte 0x00 to 0x7f (R118): the value is the byte. -/
def execBDirect0 (b0 : Byte) (s : State) : Host.Outcome State Fault Refusal :=
  perform (deliver · [b0]) s

/-- B.DIRECT.1, leading byte 0x80 to 0xbf (R118): the value is the byte. -/
def execBDirect1 (b0 : Byte) (s : State) : Host.Outcome State Fault Refusal :=
  perform (deliver · [b0]) s

/-- B.DIRECT.2, leading byte 0xc0 to 0xdf (R118): the value is the byte. -/
def execBDirect2 (b0 : Byte) (s : State) : Host.Outcome State Fault Refusal :=
  perform (deliver · [b0]) s

/-- B.DIRECT.3, leading byte 0xe0 to 0xef (R118): the value is the byte. -/
def execBDirect3 (b0 : Byte) (s : State) : Host.Outcome State Fault Refusal :=
  perform (deliver · [b0]) s

/-- B.DIRECT.4, leading byte 0xf0 to 0xf0 (R118): the value is the byte. -/
def execBDirect4 (b0 : Byte) (s : State) : Host.Outcome State Fault Refusal :=
  perform (deliver · [b0]) s

end Sys2Proof.Machine
end

