-- ==== Sys2Proof/Machine/Gen.lean ====
section
/-! DEFINITION. The general forms (41_decoder.md R116, R121): each row's meaning is DEC receiving that encoded value. -/

namespace Sys2Proof.Machine

open Sys2Proof

/-- A.GEN1 (R116): leading byte 0xf7, 1 payload byte, base 0. -/
def execAGen1 (b1 : Byte) (s : State) : Host.Outcome State Fault Refusal :=
  perform (deliver · [0xf7#8, b1]) s

/-- A.GEN2 (R116): leading byte 0xf8, 2 payload bytes, base 0. -/
def execAGen2 (b1 b2 : Byte) (s : State) : Host.Outcome State Fault Refusal :=
  perform (deliver · [0xf8#8, b1, b2]) s

/-- A.GEN3 (R116): leading byte 0xf9, 3 payload bytes, base 0. -/
def execAGen3 (b1 b2 b3 : Byte) (s : State) : Host.Outcome State Fault Refusal :=
  perform (deliver · [0xf9#8, b1, b2, b3]) s

/-- A.GEN4 (R116): leading byte 0xfa, 4 payload bytes, base 0. -/
def execAGen4 (b1 b2 b3 b4 : Byte) (s : State) : Host.Outcome State Fault Refusal :=
  perform (deliver · [0xfa#8, b1, b2, b3, b4]) s

/-- A.GEN5 (R116): leading byte 0xfb, 5 payload bytes, base 0. -/
def execAGen5 (b1 b2 b3 b4 b5 : Byte) (s : State) : Host.Outcome State Fault Refusal :=
  perform (deliver · [0xfb#8, b1, b2, b3, b4, b5]) s

/-- A.GEN6 (R116): leading byte 0xfc, 6 payload bytes, base 0. -/
def execAGen6 (b1 b2 b3 b4 b5 b6 : Byte) (s : State) : Host.Outcome State Fault Refusal :=
  perform (deliver · [0xfc#8, b1, b2, b3, b4, b5, b6]) s

/-- A.GEN7 (R116): leading byte 0xfd, 7 payload bytes, base 0. -/
def execAGen7 (b1 b2 b3 b4 b5 b6 b7 : Byte) (s : State) : Host.Outcome State Fault Refusal :=
  perform (deliver · [0xfd#8, b1, b2, b3, b4, b5, b6, b7]) s

/-- A.GEN8 (R116): leading byte 0xfe, 8 payload bytes, base 0. -/
def execAGen8 (b1 b2 b3 b4 b5 b6 b7 b8 : Byte) (s : State) : Host.Outcome State Fault Refusal :=
  perform (deliver · [0xfe#8, b1, b2, b3, b4, b5, b6, b7, b8]) s

/-- B.GEN3 (R121): leading byte 0xf9, 3 payload bytes, base 0. -/
def execBGen3 (b1 b2 b3 : Byte) (s : State) : Host.Outcome State Fault Refusal :=
  perform (deliver · [0xf9#8, b1, b2, b3]) s

/-- B.GEN4 (R121): leading byte 0xfa, 4 payload bytes, base 0. -/
def execBGen4 (b1 b2 b3 b4 : Byte) (s : State) : Host.Outcome State Fault Refusal :=
  perform (deliver · [0xfa#8, b1, b2, b3, b4]) s

/-- B.GEN5 (R121): leading byte 0xfb, 5 payload bytes, base 0. -/
def execBGen5 (b1 b2 b3 b4 b5 : Byte) (s : State) : Host.Outcome State Fault Refusal :=
  perform (deliver · [0xfb#8, b1, b2, b3, b4, b5]) s

/-- B.GEN6 (R121): leading byte 0xfc, 6 payload bytes, base 0. -/
def execBGen6 (b1 b2 b3 b4 b5 b6 : Byte) (s : State) : Host.Outcome State Fault Refusal :=
  perform (deliver · [0xfc#8, b1, b2, b3, b4, b5, b6]) s

/-- B.GEN7 (R121): leading byte 0xfd, 7 payload bytes, base 0. -/
def execBGen7 (b1 b2 b3 b4 b5 b6 b7 : Byte) (s : State) : Host.Outcome State Fault Refusal :=
  perform (deliver · [0xfd#8, b1, b2, b3, b4, b5, b6, b7]) s

/-- B.GEN8 (R121): leading byte 0xfe, 8 payload bytes, base 0. -/
def execBGen8 (b1 b2 b3 b4 b5 b6 b7 b8 : Byte) (s : State) : Host.Outcome State Fault Refusal :=
  perform (deliver · [0xfe#8, b1, b2, b3, b4, b5, b6, b7, b8]) s

end Sys2Proof.Machine
end

