-- ==== Sys2Proof/Machine/Operation.lean ====
section
/-! DEFINITION. The two operations of the core, ENCODE (40_encoder.md R80, R97 to R101) and DECODE (41_decoder.md R110,
R112, R122, R129, R130). -/

namespace Sys2Proof.Machine

open Sys2Proof

/-- The command `enc_start(v)` at ENC: accepted by an idle ENC (R16), which then makes its transfers with the answers the
sink is ready to give, one by one (R97), to completion or until the sink has not answered (R99, R101; log 10). At a busy
ENC the command has no step (R16, U15): nothing changes, and the machine's step leaves it pending (`takeEvent`). -/
def encCommand (x : Variant) (v : Word) (s : RunState) : Host.Outcome RunState Fault Refusal :=
  match s.enc.phase with
  | .idle => encRun x s.sinkAnswers (encStart v s)
  | .emit => .next s

/-- The command `dec_start` at DEC: accepted by an idle DEC (R18), which then makes its transfers with the answers the
source is ready to give, one by one (R112, R122), to completion or until the source has not answered (R129, R130;
log 10). At a busy DEC the command has no step (R18, U15): nothing changes, and the machine's step leaves it pending
(`takeEvent`). -/
def decCommand (x : Variant) (s : RunState) : Host.Outcome RunState Fault Refusal :=
  match s.dec.phase with
  | .idle => decRun x s.source (decStart s)
  | .lead => .next s
  | .payload => .next s

/-- ENCODE (R80): the command `enc_start(v)` and the transfers it leads to. -/
def execEncode (v : Word) (s : State) : Host.Outcome State Fault Refusal :=
  perform (encCommand · v) s

/-- DECODE (R110): the command `dec_start` and the transfers it leads to. -/
def execDecode (s : State) : Host.Outcome State Fault Refusal :=
  perform decCommand s

end Sys2Proof.Machine
end

