-- ==== Sys2Proof/Machine/Sentinel.lean ====
section
/-! DEFINITION. The reserved leading byte 0xff (41_decoder.md R117): the range validator. -/

namespace Sys2Proof.Machine

open Sys2Proof

/-- A.SENTINEL (R117): the reserved leading byte 0xff completes OUT_OF_RANGE and nothing more is read. -/
def execASentinel (s : State) : Host.Outcome State Fault Refusal :=
  perform (deliver · [0xff#8]) s

/-- B.SENTINEL (R117): the reserved leading byte 0xff completes OUT_OF_RANGE and nothing more is read. -/
def execBSentinel (s : State) : Host.Outcome State Fault Refusal :=
  perform (deliver · [0xff#8]) s

end Sys2Proof.Machine
end

