-- ==== Sys2Proof/Machine/Tier.lean ====
section
/-! DEFINITION. Variant B's dense tiers (41_decoder.md R119, R120): each row's meaning is DEC receiving that encoded value. -/

namespace Sys2Proof.Machine

open Sys2Proof

/-- B.T2.k0 (R119): leading byte 0xf1, one payload byte, value 0xf0 + byte1. -/
def execBT2k0 (b1 : Byte) (s : State) : Host.Outcome State Fault Refusal :=
  perform (deliver · [0xf1#8, b1]) s

/-- B.T2.k1 (R119): leading byte 0xf2, one payload byte, value 0x1f0 + byte1. -/
def execBT2k1 (b1 : Byte) (s : State) : Host.Outcome State Fault Refusal :=
  perform (deliver · [0xf2#8, b1]) s

/-- B.T2.k2 (R119): leading byte 0xf3, one payload byte, value 0x2f0 + byte1. -/
def execBT2k2 (b1 : Byte) (s : State) : Host.Outcome State Fault Refusal :=
  perform (deliver · [0xf3#8, b1]) s

/-- B.T2.k3 (R119): leading byte 0xf4, one payload byte, value 0x3f0 + byte1. -/
def execBT2k3 (b1 : Byte) (s : State) : Host.Outcome State Fault Refusal :=
  perform (deliver · [0xf4#8, b1]) s

/-- B.T2.k4 (R119): leading byte 0xf5, one payload byte, value 0x4f0 + byte1. -/
def execBT2k4 (b1 : Byte) (s : State) : Host.Outcome State Fault Refusal :=
  perform (deliver · [0xf5#8, b1]) s

/-- B.T2.k5 (R119): leading byte 0xf6, one payload byte, value 0x5f0 + byte1. -/
def execBT2k5 (b1 : Byte) (s : State) : Host.Outcome State Fault Refusal :=
  perform (deliver · [0xf6#8, b1]) s

/-- B.T2.k6 (R119): leading byte 0xf7, one payload byte, value 0x6f0 + byte1. -/
def execBT2k6 (b1 : Byte) (s : State) : Host.Outcome State Fault Refusal :=
  perform (deliver · [0xf7#8, b1]) s

/-- B.T3 (R120): leading byte 0xf8, two payload bytes, value 0x7f0 + the payload. -/
def execBT3 (b1 b2 : Byte) (s : State) : Host.Outcome State Fault Refusal :=
  perform (deliver · [0xf8#8, b1, b2]) s

end Sys2Proof.Machine
end

