-- ==== Sys2Proof/Machine/Dispatch.lean ====
section
/-! DEFINITION. The dispatch: one arm per constructor of Instr, each one direct call of its meaning. -/

namespace Sys2Proof.Machine

open Sys2Proof

def exec (i : Instr) (s : State) : Host.Outcome State Fault Refusal :=
  match i with
  | .aDirect0 b0 => Sys2Proof.Machine.execADirect0 b0 s
  | .aDirect1 b0 => Sys2Proof.Machine.execADirect1 b0 s
  | .aDirect2 b0 => Sys2Proof.Machine.execADirect2 b0 s
  | .aDirect3 b0 => Sys2Proof.Machine.execADirect3 b0 s
  | .aDirect4 b0 => Sys2Proof.Machine.execADirect4 b0 s
  | .aDirect5 b0 => Sys2Proof.Machine.execADirect5 b0 s
  | .aDirect6 b0 => Sys2Proof.Machine.execADirect6 b0 s
  | .aGen1 b1 => Sys2Proof.Machine.execAGen1 b1 s
  | .aGen2 b1 b2 => Sys2Proof.Machine.execAGen2 b1 b2 s
  | .aGen3 b1 b2 b3 => Sys2Proof.Machine.execAGen3 b1 b2 b3 s
  | .aGen4 b1 b2 b3 b4 => Sys2Proof.Machine.execAGen4 b1 b2 b3 b4 s
  | .aGen5 b1 b2 b3 b4 b5 => Sys2Proof.Machine.execAGen5 b1 b2 b3 b4 b5 s
  | .aGen6 b1 b2 b3 b4 b5 b6 => Sys2Proof.Machine.execAGen6 b1 b2 b3 b4 b5 b6 s
  | .aGen7 b1 b2 b3 b4 b5 b6 b7 => Sys2Proof.Machine.execAGen7 b1 b2 b3 b4 b5 b6 b7 s
  | .aGen8 b1 b2 b3 b4 b5 b6 b7 b8 => Sys2Proof.Machine.execAGen8 b1 b2 b3 b4 b5 b6 b7 b8 s
  | .aSentinel => Sys2Proof.Machine.execASentinel s
  | .bDirect0 b0 => Sys2Proof.Machine.execBDirect0 b0 s
  | .bDirect1 b0 => Sys2Proof.Machine.execBDirect1 b0 s
  | .bDirect2 b0 => Sys2Proof.Machine.execBDirect2 b0 s
  | .bDirect3 b0 => Sys2Proof.Machine.execBDirect3 b0 s
  | .bDirect4 b0 => Sys2Proof.Machine.execBDirect4 b0 s
  | .bT2k0 b1 => Sys2Proof.Machine.execBT2k0 b1 s
  | .bT2k1 b1 => Sys2Proof.Machine.execBT2k1 b1 s
  | .bT2k2 b1 => Sys2Proof.Machine.execBT2k2 b1 s
  | .bT2k3 b1 => Sys2Proof.Machine.execBT2k3 b1 s
  | .bT2k4 b1 => Sys2Proof.Machine.execBT2k4 b1 s
  | .bT2k5 b1 => Sys2Proof.Machine.execBT2k5 b1 s
  | .bT2k6 b1 => Sys2Proof.Machine.execBT2k6 b1 s
  | .bT3 b1 b2 => Sys2Proof.Machine.execBT3 b1 b2 s
  | .bGen3 b1 b2 b3 => Sys2Proof.Machine.execBGen3 b1 b2 b3 s
  | .bGen4 b1 b2 b3 b4 => Sys2Proof.Machine.execBGen4 b1 b2 b3 b4 s
  | .bGen5 b1 b2 b3 b4 b5 => Sys2Proof.Machine.execBGen5 b1 b2 b3 b4 b5 s
  | .bGen6 b1 b2 b3 b4 b5 b6 => Sys2Proof.Machine.execBGen6 b1 b2 b3 b4 b5 b6 s
  | .bGen7 b1 b2 b3 b4 b5 b6 b7 => Sys2Proof.Machine.execBGen7 b1 b2 b3 b4 b5 b6 b7 s
  | .bGen8 b1 b2 b3 b4 b5 b6 b7 b8 => Sys2Proof.Machine.execBGen8 b1 b2 b3 b4 b5 b6 b7 b8 s
  | .bSentinel => Sys2Proof.Machine.execBSentinel s
  | .encode v => Sys2Proof.Machine.execEncode v s
  | .decode => Sys2Proof.Machine.execDecode s

end Sys2Proof.Machine
end

