-- ==== Sys2Proof/Machine/Fetch.lean ====
section
/-! DEFINITION. What the step finds to do: the whole encoded value that stands next on the source of a DEC that waits for a
leading byte, a port that has an answer ready, the platform's next event. Finding the value reads the source without
consuming anything (20_memory.md R47: DEC holds no byte that does not belong to the value being decoded). -/

namespace Sys2Proof.Machine

open Sys2Proof

/-- The bytes the source is ready to deliver, up to its first other answer. -/
def readyBytes : List SrcAnswer → List Byte
  | .byte b :: rest => b :: readyBytes rest
  | _ => []

/-- The form that stands whole on the source of a DEC in phase LEAD (R66: the leading byte tells the length). -/
def fetch (x : Variant) (s : RunState) : Option Instr :=
  match s.dec.phase with
  | .lead =>
    match decodeForm x (readyBytes s.source) with
    | .ok (i, _) => some i
    | .error _ => none
  | .idle => none
  | .payload => none

/-- DEC is in flight and the source has an answer ready. -/
def decReady (s : RunState) : Bool := s.dec.phase ≠ .idle && !s.source.isEmpty

/-- ENC is in flight and the sink has an answer ready. -/
def encReady (s : RunState) : Bool := s.enc.phase = .emit && !s.sinkAnswers.isEmpty

/-- DEC's next transfer (R112, R122); without an answer DEC waits (R130). -/
def decNext (x : Variant) (s : RunState) : Host.Outcome RunState Fault Refusal :=
  match s.source with
  | [] => .next s
  | r :: _ => decTransfer x r s

/-- ENC's next transfer (R97); without an answer ENC waits (R101). -/
def encNext (x : Variant) (s : RunState) : Host.Outcome RunState Fault Refusal :=
  match s.sinkAnswers with
  | [] => .next s
  | r :: _ => encTransfer x r s

/-- The source of a table word: its nine bytes, first byte first. -/
def fetchAnswers (nbits w : Nat) : List SrcAnswer := (tableBytes nbits w).map .byte

/-- DEC waiting for a leading byte with a table word's bytes next on the source. -/
def placeWord (nbits w : Nat) (s : RunState) : RunState :=
  { decStart s with source := fetchAnswers nbits w }

/-- The instruction a command event stands for (R69); the other events stand for none. -/
def Event.instr : Event → Option Instr
  | .encStart v => some (.encode v)
  | .decStart => some .decode
  | .sinkReady _ => none
  | .sourceReady _ => none
  | .reset _ => none
  | .read _ => none

/-- The unit whose inputs or result fields the platform uses in an event; `none` for what the ports do by themselves, for
reset, and for the constant `VARIANT`. -/
def Event.unit : Event → Option CoreUnit
  | .encStart _ => some .enc
  | .decStart => some .dec
  | .read .encDone => some .enc
  | .read .encStatus => some .enc
  | .read .decDone => some .dec
  | .read .decStatus => some .dec
  | .read .decValue => some .dec
  | .read .variant => none
  | .sinkReady _ => none
  | .sourceReady _ => none
  | .reset _ => none

/-- Whether a unit is IDLE, so that it accepts its start command (R16, R18). -/
def unitIdle (s : RunState) : CoreUnit → Bool
  | .enc => s.enc.phase = .idle
  | .dec => s.dec.phase = .idle

/-- Whether an event has to wait: a start command while its unit is busy, which the platform holds until the unit is idle
(R16, R18, R190, U15), and, behind a held command, what the platform does next with the same unit (log 9). -/
def Event.waits (s : RunState) (held : List CoreUnit) (e : Event) : Bool :=
  match e.unit with
  | none => false
  | some u => held.contains u || (e.instr.isSome && !unitIdle s u)

/-- The first of the platform's events that has not to wait, and the events without it; `held` are the units for which a
command is held. What waits stays pending, in its order. -/
def firstFree (s : RunState) : List CoreUnit → List Event → Option (Event × List Event)
  | _, [] => none
  | held, e :: es =>
    if e.waits s held then
      (firstFree s (e.unit.toList ++ held) es).map fun p => (p.1, e :: p.2)
    else some (e, es)

/-- What the platform does next (log 8, log 9), and what it has left to do then. -/
def takeEvent (s : RunState) : Option (Event × List Event) := firstFree s [] s.events

/-- The platform's event, unless it is a command, which goes to `exec` in the step. -/
def platformEvent (x : Variant) (e : Event) (s : RunState) : Host.Outcome RunState Fault Refusal :=
  match e with
  | .encStart _ => .next s
  | .decStart => .next s
  | .sinkReady answers => .next { s with sinkAnswers := s.sinkAnswers ++ answers }
  | .sourceReady answers => .next { s with source := s.source ++ answers }
  | .reset inFlight => .next (resetCore x inFlight s)
  | .read f => observe x f s

end Sys2Proof.Machine
end

