-- ==== Sys2Proof/Machine/Step.lean ====
section
/-! DEFINITION. One step of the core with its platform, and the placing of an instruction where the step fetches it.

The order in which the units and the platform move is the model's (log 7): DEC, then ENC, when the port has an answer
ready, then the first of the platform's events that has not to wait (log 9). The units share nothing (10_state.md R10) and
no rule depends on time (R199). -/

namespace Sys2Proof.Machine

open Sys2Proof

/-- One step. A DEC waiting for a leading byte executes the form that stands whole on the source; a unit in flight whose
port has an answer ready makes one transfer (R97, R112, R122); otherwise the first of the platform's events that has not
to wait happens, a command held at a busy unit staying pending (R16, R18, R190); with nothing to happen the machine stays
as it is (a unit that waits is stuck, not faulted: R101, R130, D12). -/
def step (s : State) : Host.Outcome State Fault Refusal :=
  if decReady s.run then
    match fetch s.variant s.run with
    | some i => exec i s
    | none => perform decNext s
  else if encReady s.run then perform encNext s
  else
    match takeEvent s.run with
    | none => .next s
    | some (e, es) =>
      match e.instr with
      | some i => exec i { s with events := es }
      | none => perform (platformEvent · e) { s with events := es }

/-- The same state with an instruction's bytes next on the source of a DEC that waits for a leading byte, so that the next
step executes that instruction (log 11). -/
def State.withFetchWord (s : State) (nbits w : Nat) : State := { s with run := placeWord nbits w s.run }

end Sys2Proof.Machine
end

