-- ==== Sys2Proof/Safety.lean ====
section
/-! DEFINITION. What counts as a good state and a good run, in the terms the statements use. -/

namespace Sys2Proof.Machine

open Sys2Proof

/-- What holds of ENC in every run: in EMIT the result is not out and the index names a byte of the encoding (R97, R148);
`ENC.status` holds a value exactly while `done` is 1 (R19), OK or IO_ERROR (R15). -/
def EncInv (x : Variant) (e : Enc) : Prop :=
  (e.phase = .emit → e.done = false ∧ e.idx.toNat < (encodeValue x e.value).length) ∧
  (e.status.isSome = true ↔ e.done = true) ∧
  (∀ st, e.status = some st → st = .ok ∨ st = .ioError)

/-- The bounds of R122 and R148 for a DEC in PAYLOAD: the leading byte is of a multi-byte class with `n` payload bytes, 1 to
`n` of them are missing, and the accumulator after `n - rem` of them is below `(acc0 + 1) * 256 ^ (n - rem)`. -/
def PayloadBounds (x : Variant) (d : Dec) : Prop :=
  match classify x d.lead with
  | .multi _ n acc0 =>
    1 ≤ d.rem.toNat ∧ d.rem.toNat ≤ n ∧ d.acc.toNat < (acc0 + 1) * 256 ^ (n - d.rem.toNat)
  | .direct => False
  | .sentinel => False

/-- What holds of DEC in every run: no result is out while a DECODE is in flight; the payload bounds; `DEC.status` holds a
value exactly while `done` is 1, and `DEC.value` exactly while that status is OK (R13, R19). -/
def DecInv (x : Variant) (d : Dec) : Prop :=
  (d.phase ≠ .idle → d.done = false) ∧
  (d.phase = .payload → PayloadBounds x d) ∧
  (d.status.isSome = true ↔ d.done = true) ∧
  (d.value.isSome = true ↔ d.status = some .ok)

/-- The invariant of the core. -/
def CoreInv (s : State) : Prop := EncInv s.variant s.enc ∧ DecInv s.variant s.dec

/-- The platform reads no result field in the events to come. -/
def NoReads (events : List Event) : Prop := ∀ e ∈ events, ∀ f, e ≠ .read f

/-- The start commands of one unit in a list of events, in order (R16, R18). -/
def commandsOf (u : CoreUnit) (events : List Event) : List Event :=
  events.filter fun e => e.instr.isSome && e.unit = some u

/-- The completions of one unit in a list of results, in order (R200). -/
def completionsOf (u : CoreUnit) (results : List Completion) : List Completion :=
  results.filter fun c =>
    match c with
    | .enc _ => u = .enc
    | .dec _ _ => u = .dec

/-- The run of the command list of `s`, both units IDLE there, is over in `t` (R200): every command has been accepted, so
that none is left; each has completed, so that the results since then are as many of each unit as its commands (an
operation abandoned by reset leaves none, R186); both units are IDLE. -/
def RunOver (s t : State) : Prop :=
  t.enc.phase = .idle ∧ t.dec.phase = .idle ∧
  ∃ new, t.results = s.results ++ new ∧
    ∀ u, commandsOf u t.events = [] ∧ (completionsOf u new).length = (commandsOf u s.events).length

/-- `n` steps one after another, to the first fault or refusal: the host's run of this core, over `State` itself. -/
def runSteps : Nat → State → Host.Outcome State Fault Refusal
  | 0, s => .next s
  | n + 1, s => andThen (step s) (runSteps n)

/-- A safe run of `n` steps: it meets no fault and no refusal. -/
def SafeRun (n : Nat) (s : State) : Prop := ∃ t, runSteps n s = .next t

/-- Up to `n` of DEC's transfers, one after another (R112, R122), while a DECODE is in flight. -/
def decTransfers : Nat → State → Host.Outcome State Fault Refusal
  | 0, s => .next s
  | n + 1, s => andThen (perform decNext s) (decTransfers n)

/-- Up to `n` of ENC's transfers, one after another (R97), while an ENCODE is in flight. -/
def encTransfers : Nat → State → Host.Outcome State Fault Refusal
  | 0, s => .next s
  | n + 1, s =>
    match s.enc.phase with
    | .idle => .next s
    | .emit => andThen (perform encNext s) (encTransfers n)

/-- The same instance with its run state changed. -/
def State.update (s : State) (f : RunState → RunState) : State := { s with run := f s.run }

/-- DEC has read a one-byte value `L` (R112, R115, R118): nothing else changes. -/
def afterDirect (L : Byte) (s : RunState) : RunState :=
  { s with
    source := s.source.drop 1
    srcPos := s.srcPos + 1
    dec := { s.dec with phase := .idle, done := true, status := some .ok, value := some (L.setWidth 64) }
    results := s.results ++ [.dec .ok (some (L.setWidth 64))] }

/-- DEC has read a multi-byte value: leading byte `L`, payload `p`, initial accumulator `acc0`, value `v` (R116, R119 to
R123). The accumulator keeps what it held before the last byte, the count keeps 1 (R17). Nothing else changes. -/
def afterMulti (L : Byte) (p : List Byte) (acc0 v : Nat) (s : RunState) : RunState :=
  { s with
    source := s.source.drop (1 + p.length)
    srcPos := s.srcPos + (1 + p.length)
    dec := { phase := .idle, lead := L, rem := 1#4, done := true, status := some .ok
             acc := BitVec.ofNat 64 (acc0 * 256 ^ (p.length - 1) + beval p.dropLast)
             value := some (BitVec.ofNat 64 v) }
    results := s.results ++ [.dec .ok (some (BitVec.ofNat 64 v))] }

/-- DEC has ended with an error status after reading nothing, or the sentinel byte (R112, R117, R124, R125). -/
def afterError (st : Status) (bytes : Nat) (s : RunState) : RunState :=
  { s with
    source := s.source.drop 1
    srcPos := s.srcPos + bytes
    dec := { s.dec with phase := .idle, done := true, status := some st, value := none }
    results := s.results ++ [.dec st none] }

end Sys2Proof.Machine
end

