-- ==== Sys2Proof/Certificates/Slice0/Obligations.lean ====
section
/-! DEFINITION. The statements for the provers: def Obligations.<Name> : Prop. Each docstring names the rules of spec/ it
formalises. A statement that names a whole next state by a record update says by it that every other field (every other
register, stream, flag and record) is unchanged. -/

open Sys2Proof Sys2Proof.Machine

/-! ## The wire format: decoding and encoding -/

/-- R50 to R60, R66, R69: decoding the encoding of a well-formed instruction gives it back, for every row of both variants
and every operand, and leaves whatever follows a form on the stream. -/
def Obligations.DecodeOfEncodeIsIdentity : Prop :=
  ∀ (x : Variant) (i : Instr), WellFormed x i = true →
    decode x (encode i) = .ok i ∧
    (i.isForm = true → ∀ rest : List Byte, decodeForm x (i.bytes ++ rest) = .ok (i, rest))

/-- R52, R62, R65, R66: the leading byte alone tells the length. The sentinel decodes alone; fewer bytes than the length
are refused as truncated; enough bytes decode to a well-formed form of exactly that length whose bytes are those read, so
that no bit is dropped. -/
def Obligations.LeadByteAloneTellsLength : Prop :=
  ∀ (x : Variant) (L : Byte) (t : List Byte),
    match leadLength x L with
    | none => ∃ i, decodeForm x (L :: t) = .ok (i, t) ∧ i.bytes = [L] ∧ WellFormed x i = true
    | some n =>
      if t.length + 1 < n then decodeForm x (L :: t) = .error .truncated
      else ∃ i rest, decodeForm x (L :: t) = .ok (i, rest) ∧ i.bytes ++ rest = L :: t ∧
        i.bytes.length = n ∧ WellFormed x i = true

/-- Words written out from the encodings of R54, R55, R58, R59, R60, R62 and the tags of R69 decode to their instructions. -/
def Obligations.WrittenOutWordsDecode : Prop :=
  decodeForm .a [0b00101010#8] = .ok (.aDirect0 0x2a#8, []) ∧
  decodeForm .a [0b11111000#8, 0b00010010#8, 0b00110100#8] = .ok (.aGen2 0x12#8 0x34#8, []) ∧
  decodeForm .a [0b11111111#8, 0b00000001#8] = .ok (.aSentinel, [0x01#8]) ∧
  decodeForm .b [0b11110000#8] = .ok (.bDirect4 0xf0#8, []) ∧
  decodeForm .b [0b11110001#8, 0b00010000#8] = .ok (.bT2k0 0x10#8, []) ∧
  decodeForm .b [0b11110111#8, 0b11111111#8] = .ok (.bT2k6 0xff#8, []) ∧
  decodeForm .b [0b11111000#8, 0b00001010#8, 0b01000100#8] = .ok (.bT3 0x0a#8 0x44#8, []) ∧
  decodeForm .b [0b11111001#8, 0b00000001#8, 0b00000111#8, 0b11110000#8] = .ok (.bGen3 0x01#8 0x07#8 0xf0#8, []) ∧
  decodeCommand 0b0#1 (some 0x1234#64) = .ok (.encode 0x1234#64) ∧
  decodeCommand 0b1#1 none = .ok .decode

/-- R72: the rows of one variant cover every leading byte exactly once, and the row that covers a byte has it in its range. -/
def Obligations.EveryLeadByteInExactlyOneRow : Prop :=
  ∀ (x : Variant) (L : Byte), ∃ r, (formRows x).filter (fun r => r.covers L) = [r] ∧
    r.leadLo.toNat ≤ L.toNat ∧ L.toNat ≤ r.leadHi.toNat ∧ (leadLength x L = some r.length ∨ L = 0xff#8)

/-! ## The laws of the codec (42_codec_laws.md) -/

/-- R7, R82: for 1 <= v < 2^64, `bewidth(v)` is the `w` in 1 to 8 with 2^(8(w-1)) <= v < 2^(8w). -/
def Obligations.WidthIsMinimal : Prop :=
  ∀ v : Nat, 1 ≤ v → v < 2 ^ 64 →
    1 ≤ bewidth v ∧ bewidth v ≤ 8 ∧ 256 ^ (bewidth v - 1) ≤ v ∧ v < 256 ^ bewidth v

/-- R7, R34: `be` and `beval` are inverse to each other, and byte `i` of `be(v, w)` is bits 8(w-1-i)+7 to 8(w-1-i) of
`v`: most significant byte first. -/
def Obligations.BigEndianIsInverse : Prop :=
  (∀ v w : Nat, v < 256 ^ w → beval (be v w) = v) ∧
  (∀ s : List Byte, be (beval s) s.length = s) ∧
  (∀ v w i : Nat, i < w → (be v w)[i]? = some (BitVec.ofNat 8 (v >>> (8 * (w - 1 - i)))))

/-- R96, R147: the length formula `elen` is the length of the encoding, it is 1 to 9, and it is the length the decoder derives
from the leading byte. -/
def Obligations.EncodedLengthFormula : Prop :=
  ∀ (x : Variant) (v : Word),
    (encodeValue x v).length = encodedLength x v ∧ 1 ≤ encodedLength x v ∧ encodedLength x v ≤ 9 ∧
    ((encodeValue x v).head?.bind fun L => leadLength x L) = some (encodedLength x v)

/-- R141: decoding an encoding, whatever follows it, gives the value back and consumes exactly the encoding; so `encode`
is injective. -/
def Obligations.RoundTripOfTheCodec : Prop :=
  (∀ (x : Variant) (v : Word) (t : List Byte),
    decodeBytes x (encodeValue x v ++ t) = (.ok, some v, encodedLength x v)) ∧
  (∀ (x : Variant) (v w : Word), encodeValue x v = encodeValue x w → v = w)

/-- R142, R8: encodings compare as their values do. The order is the lexicographic one of R8, which the spec supplies from
general knowledge (log 24). -/
def Obligations.EncodingPreservesOrder : Prop :=
  ∀ (x : Variant) (v w : Word),
    (v.toNat < w.toNat ↔ lexLt (encodeValue x v) (encodeValue x w) = true) ∧
    (v = w ↔ encodeValue x v = encodeValue x w)

/-- R143: larger values have encodings at least as long. -/
def Obligations.EncodedLengthIsMonotone : Prop :=
  ∀ (x : Variant) (v w : Word), v.toNat ≤ w.toNat → (encodeValue x v).length ≤ (encodeValue x w).length

/-- R144 (b), (c): from one value to the next the leading byte stays or steps by one; where it stays, the payload integer
steps by one; where it steps and the lower encoding has a payload, that payload is all ones. -/
def Obligations.NeighboursDifferByOne : Prop :=
  ∀ (x : Variant) (v w : Word), w.toNat = v.toNat + 1 →
    ∃ (L M : Byte) (p q : List Byte), encodeValue x v = L :: p ∧ encodeValue x w = M :: q ∧
      ((M = L ∧ q.length = p.length ∧ beval q = beval p + 1) ∨
       (M.toNat = L.toNat + 1 ∧ ∀ b ∈ p, b = 0xff#8))

/-- R145: the encoder never produces the sentinel as a leading byte. -/
def Obligations.SentinelNeverProduced : Prop :=
  ∀ (x : Variant) (v : Word), ∃ (L : Byte) (p : List Byte), encodeValue x v = L :: p ∧ L.toNat ≤ 0xfe

/-- R146: every shorter initial part of what a DECODE consumed is truncated; no extension changes the result; no encoding
is a proper initial part of another. -/
def Obligations.NoEncodingIsAnInitialPartOfAnother : Prop :=
  (∀ (x : Variant) (s : List Byte) (v : Word) (c : Nat), decodeBytes x s = (.ok, some v, c) →
    (∀ k, k < c → decodeBytes x (s.take k) = (.truncated, none, k)) ∧
    (∀ t, decodeBytes x (s ++ t) = (.ok, some v, c))) ∧
  (∀ (x : Variant) (v w : Word) (t : List Byte), encodeValue x w = encodeValue x v ++ t → w = v ∧ t = [])

/-- R149: a byte sequence that decodes whole is an encoding of some value exactly when it is the encoding of the value it
decodes to; and some that decode whole are not. -/
def Obligations.CanonicalExactlyWhenReencoded : Prop :=
  (∀ (x : Variant) (s : List Byte) (v : Word), decodeBytes x s = (.ok, some v, s.length) →
    ((∃ w, encodeValue x w = s) ↔ encodeValue x v = s)) ∧
  (∀ x : Variant, ∃ (s : List Byte) (v : Word), decodeBytes x s = (.ok, some v, s.length) ∧ encodeValue x v ≠ s)

/-- R63: the byte sequences the encoder of variant A can produce. -/
def Obligations.CanonicalSetOfVariantA : Prop :=
  ∀ s : List Byte, (∃ v, encodeValue .a v = s) ↔
    (∃ L : Byte, s = [L] ∧ L.toNat ≤ 0xf6) ∨
    (∃ (w : Nat) (b : Byte) (p : List Byte), 1 ≤ w ∧ w ≤ 8 ∧ (b :: p).length = w ∧
      s = BitVec.ofNat 8 (0xf6 + w) :: b :: p ∧ (w = 1 → 0xf7 ≤ b.toNat) ∧ (2 ≤ w → b ≠ 0x00#8))

/-- R63: the byte sequences the encoder of variant B can produce. -/
def Obligations.CanonicalSetOfVariantB : Prop :=
  ∀ s : List Byte, (∃ v, encodeValue .b v = s) ↔
    (∃ L : Byte, s = [L] ∧ L.toNat ≤ 0xf0) ∨
    (∃ (k : Nat) (b : Byte), k ≤ 6 ∧ s = [BitVec.ofNat 8 (0xf1 + k), b] ∧ ¬(k = 0 ∧ b = 0x00#8)) ∨
    (∃ b1 b2 : Byte, s = [0xf8#8, b1, b2]) ∨
    (∃ (w : Nat) (b : Byte) (p : List Byte), 3 ≤ w ∧ w ≤ 8 ∧ (b :: p).length = w ∧
      s = BitVec.ofNat 8 (0xf6 + w) :: b :: p ∧ (w = 3 → 0x107f0 ≤ beval (b :: p)) ∧ (4 ≤ w → b ≠ 0x00#8))

/-- R151: the encoders agree exactly up to 0xf0 and from 0x107f0; the decoders agree on every sequence whose first byte is
0x00 to 0xf0 or 0xf9 to 0xff. -/
def Obligations.VariantsAgreeOutsideTheDenseTiers : Prop :=
  (∀ v : Word, encodeValue .a v = encodeValue .b v ↔ (v.toNat ≤ 0xf0 ∨ 0x107f0 ≤ v.toNat)) ∧
  (∀ (L : Byte) (t : List Byte), (L.toNat ≤ 0xf0 ∨ 0xf9 ≤ L.toNat) →
    decodeBytes .a (L :: t) = decodeBytes .b (L :: t)) ∧
  (∀ (L : Byte) (t : List Byte), 0xf1 ≤ L.toNat → L.toNat ≤ 0xf8 → (decodeBytes .a (L :: t)).1 = .ok →
    decodeBytes .a (L :: t) ≠ decodeBytes .b (L :: t))

/-! ## The step -/

/-- 30_encoding.md, introduction, R66, R112. A DEC that waits for a leading byte, with the whole of a well-formed form next on
its source, executes that form in the next step. That one step executes the whole form, where R112 gives one transfer a
step, is the model's choice (log 6), and so is the order of moves (log 7). -/
def Obligations.StepRunsTheFormOnTheSource : Prop :=
  ∀ (s : State) (i : Instr) (rest : List SrcAnswer), s.dec.phase = .lead → WellFormed s.variant i = true →
    i.isForm = true → s.source = i.bytes.map .byte ++ rest → step s = exec i s

/-- R16, R18, R69; the model's order of moves is log 7. With no transfer to make, the step executes the command the platform
offers next to an idle unit, in the state without that event. -/
def Obligations.StepRunsTheOfferedCommand : Prop :=
  ∀ (s : State) (es : List Event), decReady s.run = false → encReady s.run = false →
    (∀ v, s.enc.phase = .idle → s.events = .encStart v :: es →
      step s = exec (.encode v) { s with events := es }) ∧
    (s.dec.phase = .idle → s.events = .decStart :: es → step s = exec .decode { s with events := es })

/-- R97, R98 at the step: with nothing for DEC to read, an ENC in EMIT presents byte `ENC.idx`; on `Err` it completes
IO_ERROR, on `Ok` it completes OK at the last byte and goes to the next index otherwise. -/
def Obligations.StepMakesThePackersTransfer : Prop :=
  ∀ (s : State) (b : Byte) (rest : List SinkAnswer), decReady s.run = false → s.enc.phase = .emit →
    packerByte s.variant s.run = some b →
    (s.sinkAnswers = .err :: rest → step s = .next { s with
        sinkAnswers := rest
        enc := { s.enc with phase := .idle, done := true, status := some .ioError }
        results := s.results ++ [.enc .ioError] }) ∧
    (s.sinkAnswers = .ok :: rest → s.enc.idx.toNat + 1 = (encodeValue s.variant s.enc.value).length →
      step s = .next { s with
        sink := s.sink ++ [b]
        sinkAnswers := rest
        enc := { s.enc with phase := .idle, done := true, status := some .ok }
        results := s.results ++ [.enc .ok] }) ∧
    (s.sinkAnswers = .ok :: rest → s.enc.idx.toNat + 1 ≠ (encodeValue s.variant s.enc.value).length →
      step s = .next { s with
        sink := s.sink ++ [b]
        sinkAnswers := rest
        enc := { s.enc with idx := s.enc.idx + 1#4 } })

/-- R112 at the step: a leading byte of a multi-byte class whose payload is not all there yet is read alone, and DEC waits
for the payload. -/
def Obligations.StepReadsALeadingByteAlone : Prop :=
  ∀ (s : State) (L : Byte) (rest : List SrcAnswer) (k : MultiKind) (n acc0 : Nat),
    s.dec.phase = .lead → s.source = .byte L :: rest → classify s.variant L = .multi k n acc0 →
    (readyBytes rest).length < n →
    step s = .next { s with
      source := rest
      srcPos := s.srcPos + 1
      dec := { s.dec with
        phase := .payload, lead := L, acc := BitVec.ofNat 64 acc0, rem := BitVec.ofNat 4 n } }

/-- R122 at the step: a payload byte is shifted into the accumulator; the last one completes OK with the base added. -/
def Obligations.StepReadsAPayloadByte : Prop :=
  ∀ (s : State) (b : Byte) (rest : List SrcAnswer), s.dec.phase = .payload → 1 ≤ s.dec.rem.toNat →
    s.dec.rem.toNat ≤ 8 → s.source = .byte b :: rest →
    (s.dec.rem.toNat = 1 → step s = .next { s with
        source := rest
        srcPos := s.srcPos + 1
        dec := { s.dec with
          phase := .idle, done := true, status := some .ok
          value := some (BitVec.ofNat 64 (base s.variant s.dec.lead) + ((s.dec.acc <<< 8) ||| b.setWidth 64)) }
        results := s.results ++ [.dec .ok
          (some (BitVec.ofNat 64 (base s.variant s.dec.lead) + ((s.dec.acc <<< 8) ||| b.setWidth 64)))] }) ∧
    (s.dec.rem.toNat ≠ 1 → step s = .next { s with
        source := rest
        srcPos := s.srcPos + 1
        dec := { s.dec with acc := (s.dec.acc <<< 8) ||| b.setWidth 64, rem := s.dec.rem - 1#4 } })

/-- R124, R125, R162, R163: `End` to any transfer of a DECODE in flight completes TRUNCATED and `Err` completes IO_ERROR, at
once, with nothing consumed by that transfer and no value. -/
def Obligations.FailedSourceTransferEndsTheDecode : Prop :=
  ∀ (s : State) (rest : List SrcAnswer), s.dec.phase ≠ .idle →
    (s.source = .endOfStream :: rest → step s = .next (s.update (afterError .truncated 0))) ∧
    (s.source = .err :: rest → step s = .next (s.update (afterError .ioError 0)))

/-- R101, R130, D12, U15: with no answer for a unit in flight and nothing left for the platform to do but commands it holds
for busy units, the machine waits: it is stuck, not faulted. That it waits in the same state is the model's (log 8). -/
def Obligations.WaitingIsStuckNotFaulted : Prop :=
  ∀ s : State, decReady s.run = false → encReady s.run = false →
    (∀ e ∈ s.events, (e = .decStart ∧ s.dec.phase ≠ .idle) ∨ (s.enc.phase = .emit ∧ ∃ v, e = .encStart v)) →
    step s = .next s

/-! ## ENCODE (40_encoder.md) -/

/-- R80, R99: an idle ENC whose sink answers `Ok` to every transfer appends exactly the encoding to the sink, in order, with
one transfer a byte, and completes OK. -/
def Obligations.EncodeWritesTheEncoding : Prop :=
  ∀ (s : State) (v : Word) (rest : List SinkAnswer), s.enc.phase = .idle →
    s.sinkAnswers = List.replicate (encodeValue s.variant v).length .ok ++ rest →
    exec (.encode v) s = .next { s with
      sink := s.sink ++ encodeValue s.variant v
      sinkAnswers := rest
      enc := { phase := .idle, value := v, done := true, status := some .ok
               idx := BitVec.ofNat 4 ((encodeValue s.variant v).length - 1) }
      results := s.results ++ [.enc .ok] }

/-- R98, R161: if the sink's first `Err` answers transfer `k`, ENC completes IO_ERROR, bytes 0 to k-1 stay on the sink and
nothing more is written. -/
def Obligations.EncodeStopsAtASinkFailure : Prop :=
  ∀ (s : State) (v : Word) (k : Nat) (rest : List SinkAnswer), s.enc.phase = .idle →
    k < (encodeValue s.variant v).length → s.sinkAnswers = List.replicate k .ok ++ .err :: rest →
    exec (.encode v) s = .next { s with
      sink := s.sink ++ (encodeValue s.variant v).take k
      sinkAnswers := rest
      enc := { phase := .idle, value := v, idx := BitVec.ofNat 4 k, done := true, status := some .ioError }
      results := s.results ++ [.enc .ioError] }

/-- R16, R97, R101: if the sink has answered only `k` transfers, all `Ok`, ENC waits in EMIT at index `k` with `k` bytes
written; with `k = 0` this is the accepted start alone. -/
def Obligations.EncodeWaitsForTheSink : Prop :=
  ∀ (s : State) (v : Word) (k : Nat), s.enc.phase = .idle → k < (encodeValue s.variant v).length →
    s.sinkAnswers = List.replicate k .ok →
    exec (.encode v) s = .next { s with
      sink := s.sink ++ (encodeValue s.variant v).take k
      sinkAnswers := []
      enc := { phase := .emit, value := v, idx := BitVec.ofNat 4 k, done := false, status := none } }

/-- R16, R18, R190, U15: a start command has no step at a busy unit. Executing it there changes nothing; a step of the machine
takes none of the commands the platform holds for a busy unit, all of them stay pending in their order; and a held
command does not hold back the ports, so that the unit can complete and the command is accepted then (which events pass
a held command is log 9). -/
def Obligations.BusyUnitTurnsTheCommandAway : Prop :=
  (∀ (s : State) (v : Word), s.enc.phase = .emit → exec (.encode v) s = .next s) ∧
  (∀ s : State, s.dec.phase ≠ .idle → exec .decode s = .next s) ∧
  (∀ s t : State, step s = .next t →
    (s.enc.phase = .emit → commandsOf .enc t.events = commandsOf .enc s.events) ∧
    (s.dec.phase ≠ .idle → commandsOf .dec t.events = commandsOf .dec s.events)) ∧
  (∀ (s : State) (held es : List Event), decReady s.run = false → encReady s.run = false →
    (∀ e ∈ held, (e = .decStart ∧ s.dec.phase ≠ .idle) ∨ (s.enc.phase = .emit ∧ ∃ v, e = .encStart v)) →
    (∀ answers, s.events = held ++ .sinkReady answers :: es →
      step s = .next { s with events := held ++ es, sinkAnswers := s.sinkAnswers ++ answers }) ∧
    (∀ answers, s.events = held ++ .sourceReady answers :: es →
      step s = .next { s with events := held ++ es, source := s.source ++ answers }))

/-- R99, R100, R38: whatever the state and the sink's answers, ENCODE goes on to a next state: no operand makes it fail; and
it uses up at most one answer for each byte of the encoding, so at most 9. -/
def Obligations.EncodeNeverFaults : Prop :=
  ∀ (s : State) (v : Word), ∃ (t : State) (k : Nat), exec (.encode v) s = .next t ∧
    k ≤ encodedLength s.variant v ∧ k ≤ 9 ∧ t.sinkAnswers = s.sinkAnswers.drop k

/-- R30, R39, R80: the frame of ENCODE. DEC, the source, `VARIANT` and the platform's record are unchanged, and every
position of the sink reads as before but those from `sink_pos` on, at most the length of the encoding, where ENC stores
the bytes of the encoding; nothing is stored when ENC is busy. -/
def Obligations.EncodeFrame : Prop :=
  ∀ (s t : State) (v : Word), exec (.encode v) s = .next t →
    t.variant = s.variant ∧ t.dec = s.dec ∧ t.source = s.source ∧ t.srcPos = s.srcPos ∧ t.events = s.events ∧
    t.observed = s.observed ∧ t.freeCount = s.freeCount ∧
    (∀ pos, pos < s.sinkPos ∨ s.sinkPos + encodedLength s.variant v ≤ pos → t.sinkByte pos = s.sinkByte pos) ∧
    (∀ i b, t.sinkByte (s.sinkPos + i) = some b → (encodeValue s.variant v)[i]? = some b) ∧
    (s.enc.phase = .emit → t.sink = s.sink)

/-- R81, R97, R99: ENCODE is its start followed by its transfers, one after another. That `exec` takes every answer that is
ready in the step that accepts the command is the model's choice (log 10). -/
def Obligations.EncodeIsItsTransfers : Prop :=
  ∀ (s : State) (v : Word), s.enc.phase = .idle →
    exec (.encode v) s = encTransfers s.sinkAnswers.length (s.update (encStart v))

/-! ## DECODE and the forms (41_decoder.md) -/

/-- R128, R129: DECODE on an idle DEC whose source delivers the bytes `bs` and then answers `End` completes as the pure
function says: status, value, bytes consumed; the bytes behind them stay on the source. -/
def Obligations.DecodeComputesThePureFunction : Prop :=
  ∀ (s : State) (bs : List Byte) (rest : List SrcAnswer), s.dec.phase = .idle →
    s.source = bs.map .byte ++ .endOfStream :: rest →
    ∃ d : Dec, exec .decode s = .next { s with
        source := (bs.drop (decodeBytes s.variant bs).2.2).map .byte ++
          (if (decodeBytes s.variant bs).1 = .truncated then rest else .endOfStream :: rest)
        srcPos := s.srcPos + (decodeBytes s.variant bs).2.2
        dec := d
        results := s.results ++ [.dec (decodeBytes s.variant bs).1 (decodeBytes s.variant bs).2.1] } ∧
      d.phase = .idle ∧ d.done = true ∧ d.status = some (decodeBytes s.variant bs).1 ∧
      d.value = (decodeBytes s.variant bs).2.1

/-- R125, R126, R129: the same with `Err` in place of `End`: a value that is not whole completes IO_ERROR with all the bytes
consumed and no value; a whole one never meets the `Err`. -/
def Obligations.DecodeMeetsATransportFailure : Prop :=
  ∀ (s : State) (bs : List Byte) (rest : List SrcAnswer), s.dec.phase = .idle →
    s.source = bs.map .byte ++ .err :: rest →
    ∃ d : Dec, exec .decode s = .next { s with
        source := (bs.drop (decodeBytes s.variant bs).2.2).map .byte ++
          (if (decodeBytes s.variant bs).1 = .truncated then rest else .err :: rest)
        srcPos := s.srcPos + (decodeBytes s.variant bs).2.2
        dec := d
        results := s.results ++
          [.dec (if (decodeBytes s.variant bs).1 = .truncated then .ioError else (decodeBytes s.variant bs).1)
            (decodeBytes s.variant bs).2.1] } ∧
      d.phase = .idle ∧ d.done = true ∧ d.value = (decodeBytes s.variant bs).2.1 ∧
      d.status = some (if (decodeBytes s.variant bs).1 = .truncated then .ioError else (decodeBytes s.variant bs).1)

/-- R18, R112, R122, R130: with only the bytes `bs` of a value answered so far, DECODE waits: for the leading byte if there
is none; else in PAYLOAD, with the leading byte, the big-endian reading of the payload so far and the count of bytes
missing (R123). -/
def Obligations.DecodeWaitsForTheSource : Prop :=
  ∀ (s : State) (bs : List Byte), s.dec.phase = .idle → s.source = bs.map .byte →
    (decodeBytes s.variant bs).1 = .truncated →
    ∃ d : Dec, exec .decode s = .next { s with source := [], srcPos := s.srcPos + bs.length, dec := d } ∧
      d.done = false ∧ d.status = none ∧ d.value = none ∧
      (bs = [] → d.phase = .lead) ∧
      (∀ L p, bs = L :: p → d.phase = .payload ∧ d.lead = L ∧
        ∀ k n acc0, classify s.variant L = .multi k n acc0 →
          d.rem.toNat = n - p.length ∧ d.acc.toNat = acc0 * 256 ^ p.length + beval p)

/-- R127, R129, R131: whatever an idle DEC's source answers, DECODE goes on to a next state. -/
def Obligations.DecodeNeverFaults : Prop :=
  ∀ s : State, s.dec.phase = .idle → ∃ t, exec .decode s = .next t

/-- R30, R80, R110: the frame of DECODE and of every form: ENC, every position of the sink, its answers, `VARIANT` and the
platform's record are unchanged. -/
def Obligations.DecodeAndFormsFrame : Prop :=
  ∀ (s t : State) (i : Instr), (i = .decode ∨ i.isForm = true) → exec i s = .next t →
    t.variant = s.variant ∧ t.enc = s.enc ∧ (∀ pos, t.sinkByte pos = s.sinkByte pos) ∧ t.sink = s.sink ∧
    t.sinkAnswers = s.sinkAnswers ∧ t.events = s.events ∧ t.observed = s.observed ∧ t.freeCount = s.freeCount

/-- R110, R112: DECODE of a source that begins with a well-formed form is that form executed after the start. -/
def Obligations.DecodeExecutesTheFormNextOnTheSource : Prop :=
  ∀ (s : State) (i : Instr) (rest : List SrcAnswer), s.dec.phase = .idle → WellFormed s.variant i = true →
    i.isForm = true → s.source = i.bytes.map .byte ++ rest → exec .decode s = exec i (s.update decStart)

/-- R54, R112, R115: the DIRECT rows of variant A: the value is the byte, one byte is consumed, nothing else changes. -/
def Obligations.VariantADirectFormsDecode : Prop :=
  ∀ (s : State) (b : Byte), s.variant = .a → s.dec.phase = .lead →
    (WellFormed .a (.aDirect0 b) = true → exec (.aDirect0 b) s = .next (s.update (afterDirect b))) ∧
    (WellFormed .a (.aDirect1 b) = true → exec (.aDirect1 b) s = .next (s.update (afterDirect b))) ∧
    (WellFormed .a (.aDirect2 b) = true → exec (.aDirect2 b) s = .next (s.update (afterDirect b))) ∧
    (WellFormed .a (.aDirect3 b) = true → exec (.aDirect3 b) s = .next (s.update (afterDirect b))) ∧
    (WellFormed .a (.aDirect4 b) = true → exec (.aDirect4 b) s = .next (s.update (afterDirect b))) ∧
    (WellFormed .a (.aDirect5 b) = true → exec (.aDirect5 b) s = .next (s.update (afterDirect b))) ∧
    (WellFormed .a (.aDirect6 b) = true → exec (.aDirect6 b) s = .next (s.update (afterDirect b)))

/-- R55, R61, R116, R123: A.GEN1 to A.GEN8, with any payload: the value is its big-endian reading, `1 + w` bytes are
consumed, nothing else changes. -/
def Obligations.VariantAGeneralFormsDecode : Prop :=
  ∀ (s : State) (b1 b2 b3 b4 b5 b6 b7 b8 : Byte), s.variant = .a → s.dec.phase = .lead →
    exec (.aGen1 b1) s = .next (s.update (afterMulti 0xf7#8 [b1] 0 (beval [b1]))) ∧
    exec (.aGen2 b1 b2) s = .next (s.update (afterMulti 0xf8#8 [b1, b2] 0 (beval [b1, b2]))) ∧
    exec (.aGen3 b1 b2 b3) s = .next (s.update (afterMulti 0xf9#8 [b1, b2, b3] 0 (beval [b1, b2, b3]))) ∧
    exec (.aGen4 b1 b2 b3 b4) s = .next (s.update (afterMulti 0xfa#8 [b1, b2, b3, b4] 0 (beval [b1, b2, b3, b4]))) ∧
    exec (.aGen5 b1 b2 b3 b4 b5) s =
      .next (s.update (afterMulti 0xfb#8 [b1, b2, b3, b4, b5] 0 (beval [b1, b2, b3, b4, b5]))) ∧
    exec (.aGen6 b1 b2 b3 b4 b5 b6) s =
      .next (s.update (afterMulti 0xfc#8 [b1, b2, b3, b4, b5, b6] 0 (beval [b1, b2, b3, b4, b5, b6]))) ∧
    exec (.aGen7 b1 b2 b3 b4 b5 b6 b7) s =
      .next (s.update (afterMulti 0xfd#8 [b1, b2, b3, b4, b5, b6, b7] 0 (beval [b1, b2, b3, b4, b5, b6, b7]))) ∧
    exec (.aGen8 b1 b2 b3 b4 b5 b6 b7 b8) s =
      .next (s.update (afterMulti 0xfe#8 [b1, b2, b3, b4, b5, b6, b7, b8] 0 (beval [b1, b2, b3, b4, b5, b6, b7, b8])))

/-- R62, R117, R164: the sentinel rows of both variants: OUT_OF_RANGE, exactly the one byte consumed, no value, nothing
else changes. -/
def Obligations.SentinelIsOutOfRange : Prop :=
  ∀ s : State, s.dec.phase = .lead →
    (s.variant = .a → exec .aSentinel s = .next (s.update (afterError .outOfRange 1))) ∧
    (s.variant = .b → exec .bSentinel s = .next (s.update (afterError .outOfRange 1)))

/-- R57, R112, R118: the DIRECT rows of variant B. -/
def Obligations.VariantBDirectFormsDecode : Prop :=
  ∀ (s : State) (b : Byte), s.variant = .b → s.dec.phase = .lead →
    (WellFormed .b (.bDirect0 b) = true → exec (.bDirect0 b) s = .next (s.update (afterDirect b))) ∧
    (WellFormed .b (.bDirect1 b) = true → exec (.bDirect1 b) s = .next (s.update (afterDirect b))) ∧
    (WellFormed .b (.bDirect2 b) = true → exec (.bDirect2 b) s = .next (s.update (afterDirect b))) ∧
    (WellFormed .b (.bDirect3 b) = true → exec (.bDirect3 b) s = .next (s.update (afterDirect b))) ∧
    (WellFormed .b (.bDirect4 b) = true → exec (.bDirect4 b) s = .next (s.update (afterDirect b)))

/-- R58, R59, R61, R119, R120, R123: variant B's dense tiers: T2 with `k` gives `0xf0 + 256 k + byte1`, T3 gives `0x7f0`
plus the big-endian reading of its two bytes. -/
def Obligations.VariantBDenseTiersDecode : Prop :=
  ∀ (s : State) (b1 b2 : Byte), s.variant = .b → s.dec.phase = .lead →
    exec (.bT2k0 b1) s = .next (s.update (afterMulti 0xf1#8 [b1] 0 (0xf0 + b1.toNat))) ∧
    exec (.bT2k1 b1) s = .next (s.update (afterMulti 0xf2#8 [b1] 1 (0xf0 + 256 * 1 + b1.toNat))) ∧
    exec (.bT2k2 b1) s = .next (s.update (afterMulti 0xf3#8 [b1] 2 (0xf0 + 256 * 2 + b1.toNat))) ∧
    exec (.bT2k3 b1) s = .next (s.update (afterMulti 0xf4#8 [b1] 3 (0xf0 + 256 * 3 + b1.toNat))) ∧
    exec (.bT2k4 b1) s = .next (s.update (afterMulti 0xf5#8 [b1] 4 (0xf0 + 256 * 4 + b1.toNat))) ∧
    exec (.bT2k5 b1) s = .next (s.update (afterMulti 0xf6#8 [b1] 5 (0xf0 + 256 * 5 + b1.toNat))) ∧
    exec (.bT2k6 b1) s = .next (s.update (afterMulti 0xf7#8 [b1] 6 (0xf0 + 256 * 6 + b1.toNat))) ∧
    exec (.bT3 b1 b2) s = .next (s.update (afterMulti 0xf8#8 [b1, b2] 0 (0x7f0 + (b1.toNat * 256 + b2.toNat))))

/-- R60, R61, R121, R123: B.GEN3 to B.GEN8, with any payload. -/
def Obligations.VariantBGeneralFormsDecode : Prop :=
  ∀ (s : State) (b1 b2 b3 b4 b5 b6 b7 b8 : Byte), s.variant = .b → s.dec.phase = .lead →
    exec (.bGen3 b1 b2 b3) s = .next (s.update (afterMulti 0xf9#8 [b1, b2, b3] 0 (beval [b1, b2, b3]))) ∧
    exec (.bGen4 b1 b2 b3 b4) s = .next (s.update (afterMulti 0xfa#8 [b1, b2, b3, b4] 0 (beval [b1, b2, b3, b4]))) ∧
    exec (.bGen5 b1 b2 b3 b4 b5) s =
      .next (s.update (afterMulti 0xfb#8 [b1, b2, b3, b4, b5] 0 (beval [b1, b2, b3, b4, b5]))) ∧
    exec (.bGen6 b1 b2 b3 b4 b5 b6) s =
      .next (s.update (afterMulti 0xfc#8 [b1, b2, b3, b4, b5, b6] 0 (beval [b1, b2, b3, b4, b5, b6]))) ∧
    exec (.bGen7 b1 b2 b3 b4 b5 b6 b7) s =
      .next (s.update (afterMulti 0xfd#8 [b1, b2, b3, b4, b5, b6, b7] 0 (beval [b1, b2, b3, b4, b5, b6, b7]))) ∧
    exec (.bGen8 b1 b2 b3 b4 b5 b6 b7 b8) s =
      .next (s.update (afterMulti 0xfe#8 [b1, b2, b3, b4, b5, b6, b7, b8] 0 (beval [b1, b2, b3, b4, b5, b6, b7, b8])))

/-- R26, R43, R47; log 19: an idle DEC reads nothing, so a form changes nothing there; and in every phase a form is the
transfers DEC makes of its bytes, one after another. -/
def Obligations.FormIsItsTransfers : Prop :=
  ∀ (s : State) (i : Instr) (rest : List SrcAnswer), i.isForm = true →
    (s.dec.phase = .idle → exec i s = .next s) ∧
    (s.source = i.bytes.map .byte ++ rest → exec i s = decTransfers i.bytes.length s)

/-! ## Invariants and whole runs -/

/-- R27, R185 and log 2, log 3: the invariant holds after reset, in both variants. -/
def Obligations.InvariantHoldsAtReset : Prop :=
  CoreInv State.reset ∧ ∀ x : Variant, CoreInv (State.resetOf x)

/-- R27, R19: what reset leaves, in the fields whose value the spec states. -/
def Obligations.ResetLeavesBothUnitsIdle : Prop :=
  ∀ x : Variant, (State.resetOf x).enc.phase = .idle ∧ (State.resetOf x).enc.done = false ∧
    (State.resetOf x).enc.status = none ∧ (State.resetOf x).dec.phase = .idle ∧
    (State.resetOf x).dec.done = false ∧ (State.resetOf x).dec.status = none ∧
    (State.resetOf x).dec.value = none ∧ (State.resetOf x).variant = x

/-- R12, R13, R15, R17, R19, R122, R148: every step keeps the invariant. -/
def Obligations.EveryStepKeepsTheInvariant : Prop :=
  ∀ s t : State, CoreInv s → step s = .next t → CoreInv t

/-- R123, R148: in a state of the invariant the payload step's shift, or and sum lose no bit of the 64. -/
def Obligations.NoArithmeticWraps : Prop :=
  ∀ (s : State) (b : Byte), CoreInv s → s.dec.phase = .payload →
    ((s.dec.acc <<< 8) ||| b.setWidth 64).toNat = s.dec.acc.toNat * 256 + b.toNat ∧
    (BitVec.ofNat 64 (base s.variant s.dec.lead) + ((s.dec.acc <<< 8) ||| b.setWidth 64)).toNat =
      base s.variant s.dec.lead + (s.dec.acc.toNat * 256 + b.toNat)

/-- R14: no step writes `VARIANT`, reset among them; it is an argument of the operations (log 1). -/
def Obligations.VariantIsConstant : Prop :=
  ∀ s t : State, step s = .next t → t.variant = s.variant

/-- R39, R40, R186: what a port has moved stays moved: the sink keeps every byte it had, at its position, and `src_pos`
never goes back. -/
def Obligations.StreamsAreNeverRolledBack : Prop :=
  ∀ s t : State, step s = .next t → s.sink <+: t.sink ∧ s.srcPos ≤ t.srcPos

/-- R165, R174: no step is refused: every instruction has a meaning. -/
def Obligations.NoStepIsRefused : Prop :=
  ∀ (s : State) (x : Refusal), step s ≠ .refused x

/-- R165: a run from a state of the invariant in which the platform reads no result field meets no fault, however long it
is, and stays in the invariant. -/
def Obligations.RunsWithoutReadsNeverFault : Prop :=
  ∀ (n : Nat) (s : State), CoreInv s → NoReads s.events →
    ∃ t : State, runSteps n s = .next t ∧ CoreInv t

/-- R10, R30, R168: a step of one unit leaves the other unit and its stream as they were. Whose step it is, and that the other
unit does not move in it too, is the model's order of moves (log 7). -/
def Obligations.UnitsShareNothing : Prop :=
  ∀ (s t : State) (es : List Event), step s = .next t →
    ((decReady s.run = true ∨ (encReady s.run = false ∧ (s.dec.phase = .idle ∧ s.events = .decStart :: es))) →
      t.enc = s.enc ∧ t.sink = s.sink ∧ t.sinkAnswers = s.sinkAnswers) ∧
    (∀ v, (decReady s.run = false ∧
        (encReady s.run = true ∨ (s.enc.phase = .idle ∧ s.events = .encStart v :: es))) →
      t.dec = s.dec ∧ t.source = s.source ∧ t.srcPos = s.srcPos)

/-- R185, R186, R19: the reset event. Both units IDLE, `done` 0, no status and no value, no result for an abandoned operation; `VARIANT`, what
the ports moved and what they are ready to answer stay; the byte of a transfer outstanding at the sink, or being
delivered by the source, may or may not have moved (the two outcomes of U9; how the event carries the byte is log 5). -/
def Obligations.ResetAbandonsWhatIsInFlight : Prop :=
  ∀ (s : State) (b : Option Byte) (es : List Event), decReady s.run = false → encReady s.run = false →
    s.events = .reset b :: es →
    ∃ t, step s = .next t ∧ t.variant = s.variant ∧ t.enc.phase = .idle ∧ t.enc.done = false ∧
      t.enc.status = none ∧ t.dec.phase = .idle ∧ t.dec.done = false ∧ t.dec.status = none ∧ t.dec.value = none ∧ t.events = es ∧ t.results = s.results ∧
      t.observed = s.observed ∧ t.sinkAnswers = s.sinkAnswers ∧
      (t.sink = s.sink ∨ (s.enc.phase = .emit ∧ ∃ c, packerByte s.variant s.run = some c ∧ t.sink = s.sink ++ [c])) ∧
      (b = none → t.source = s.source ∧ t.srcPos = s.srcPos) ∧
      (∀ c, b = some c → (t.source = s.source ++ [.byte c] ∧ t.srcPos = s.srcPos) ∨
        (s.dec.phase ≠ .idle ∧ t.source = s.source ∧ t.srcPos = s.srcPos + 1))

/-- R19, R24, R195: the platform's reads. `done` and `VARIANT` always read; a status only while its `done` is 1; `DEC.value`
only while `DEC.done` is 1 with status OK; any other read is the platform's fault. A read changes nothing in the core. -/
def Obligations.ResultFieldsReadOnlyAfterCompletion : Prop :=
  ∀ (s : State) (f : ResultField) (es : List Event), CoreInv s → decReady s.run = false → encReady s.run = false →
    s.events = .read f :: es →
    (f = .encDone → step s = .next { s with events := es, observed := s.observed ++ [.done s.enc.done] }) ∧
    (f = .decDone → step s = .next { s with events := es, observed := s.observed ++ [.done s.dec.done] }) ∧
    (f = .variant → step s = .next { s with events := es, observed := s.observed ++ [.variant s.variant] }) ∧
    (f = .encStatus → s.enc.done = true → ∃ st, s.enc.status = some st ∧
      step s = .next { s with events := es, observed := s.observed ++ [.status st] }) ∧
    (f = .encStatus → s.enc.done = false → step s = .fault (.unspecifiedRead f)) ∧
    (f = .decStatus → s.dec.done = true → ∃ st, s.dec.status = some st ∧
      step s = .next { s with events := es, observed := s.observed ++ [.status st] }) ∧
    (f = .decStatus → s.dec.done = false → step s = .fault (.unspecifiedRead f)) ∧
    (f = .decValue → s.dec.done = true → s.dec.status = some .ok → ∃ v, s.dec.value = some v ∧
      step s = .next { s with events := es, observed := s.observed ++ [.value v] }) ∧
    (f = .decValue → ¬(s.dec.done = true ∧ s.dec.status = some .ok) → step s = .fault (.unspecifiedRead f))

/-- R199, R38: once the ports answer, an operation in flight completes after at most 9 transfers. -/
def Obligations.OperationsCompleteInNineTransfers : Prop :=
  ∀ s : State, CoreInv s →
    (s.dec.phase ≠ .idle → 9 ≤ s.source.length →
      ∃ t, decTransfers 9 s = .next t ∧ t.dec.phase = .idle ∧ t.dec.done = true) ∧
    (s.enc.phase = .emit → 9 ≤ s.sinkAnswers.length →
      ∃ t, encTransfers 9 s = .next t ∧ t.enc.phase = .idle ∧ t.enc.done = true)

/-- R11 for ENCODE: what an ENCODE writes and how it ends depend on `VARIANT`, the operand and the sink's answers alone, not
on anything an earlier operation, the other unit or a reset left. -/
def Obligations.EncodeDependsOnNoEarlierState : Prop :=
  ∀ (s₁ s₂ t₁ : State) (v : Word), s₁.variant = s₂.variant → s₁.sinkAnswers = s₂.sinkAnswers →
    s₁.enc.phase = .idle → s₂.enc.phase = .idle → exec (.encode v) s₁ = .next t₁ →
    ∃ (t₂ : State) (written : List Byte), exec (.encode v) s₂ = .next t₂ ∧
      t₁.sink = s₁.sink ++ written ∧ t₂.sink = s₂.sink ++ written ∧ t₁.sinkAnswers = t₂.sinkAnswers ∧
      t₁.enc.phase = t₂.enc.phase ∧ t₁.enc.value = t₂.enc.value ∧ t₁.enc.idx = t₂.enc.idx ∧
      t₁.enc.done = t₂.enc.done ∧ t₁.enc.status = t₂.enc.status

/-- R11 for DECODE: what a DECODE consumes and how it ends depend on `VARIANT` and the source's answers alone. -/
def Obligations.DecodeDependsOnNoEarlierState : Prop :=
  ∀ (s₁ s₂ t₁ : State), s₁.variant = s₂.variant → s₁.source = s₂.source →
    s₁.dec.phase = .idle → s₂.dec.phase = .idle → exec .decode s₁ = .next t₁ →
    ∃ (t₂ : State) (consumed : Nat), exec .decode s₂ = .next t₂ ∧
      t₁.srcPos = s₁.srcPos + consumed ∧ t₂.srcPos = s₂.srcPos + consumed ∧ t₁.source = t₂.source ∧
      t₁.dec.phase = t₂.dec.phase ∧ t₁.dec.done = t₂.dec.done ∧ t₁.dec.value = t₂.dec.value ∧
      t₁.dec.status = t₂.dec.status ∧
      (t₁.dec.phase = .payload → t₁.dec.lead = t₂.dec.lead ∧ t₁.dec.acc = t₂.dec.acc ∧ t₁.dec.rem = t₂.dec.rem)

/-- R44: on a source that holds the encodings of `vs` one after another, that many DECODE commands complete OK with those
values in order and leave the source just behind; one more, where the source then answers `End`, completes TRUNCATED. That the platform is lists of events and answers, and
that each command completes in one step, are the model's choices (log 7, log 8, log 10). -/
def Obligations.ConcatenatedValuesDecodeInOrder : Prop :=
  ∀ (s : State) (vs : List Word) (rest : List SrcAnswer), s.dec.phase = .idle → s.enc.phase = .idle →
    s.source = (vs.flatMap fun v => encodeValue s.variant v).map .byte ++ rest →
    (s.events = vs.map (fun _ => .decStart) →
      ∃ t : State, runSteps vs.length s = .next t ∧
        t.results = s.results ++ vs.map (fun v => .dec .ok (some v)) ∧ t.source = rest ∧
        t.srcPos = s.srcPos + (vs.flatMap fun v => encodeValue s.variant v).length ∧
        t.sink = s.sink ∧ t.enc = s.enc ∧ t.events = [] ∧ RunOver s t) ∧
    (∀ rest', rest = .endOfStream :: rest' → s.events = vs.map (fun _ => .decStart) ++ [.decStart] →
      ∃ t : State, runSteps (vs.length + 1) s = .next t ∧
        t.results = s.results ++ vs.map (fun v => .dec .ok (some v)) ++ [.dec .truncated none] ∧
        t.source = rest' ∧ t.srcPos = s.srcPos + (vs.flatMap fun v => encodeValue s.variant v).length ∧
        t.dec.status = some .truncated ∧ t.events = [] ∧ RunOver s t)

/-- R45, R80, R99, R200: a list of ENCODE commands on a sink that answers `Ok` throughout appends their encodings one after
another and completes each one OK. That the platform is lists of events and answers, and that each command completes in
one step, are the model's choices (log 7, log 8, log 10). -/
def Obligations.EncodedValuesAreConcatenated : Prop :=
  ∀ (s : State) (vs : List Word) (rest : List SinkAnswer), s.dec.phase = .idle → s.enc.phase = .idle →
    s.events = vs.map .encStart →
    s.sinkAnswers = List.replicate (vs.flatMap fun v => encodeValue s.variant v).length .ok ++ rest →
    ∃ t : State, runSteps vs.length s = .next t ∧
      t.sink = s.sink ++ (vs.flatMap fun v => encodeValue s.variant v) ∧ t.sinkAnswers = rest ∧
      t.results = s.results ++ vs.map (fun _ => .enc .ok) ∧ t.dec = s.dec ∧ t.source = s.source ∧
      t.events = [] ∧ RunOver s t
end

