-- ==== Sys2Proof/Laws/State.lean ====
section
/-! SUPPORT. One lemma per field per update of the state, so that no proof unfolds an update. -/

namespace Sys2Proof.Machine

open Sys2Proof

variable (s : RunState)

@[simp] theorem encComplete_enc (st : Status) : (encComplete st s).enc = { s.enc with phase := .idle, done := true, status := some st } := rfl
@[simp] theorem encComplete_dec (st : Status) : (encComplete st s).dec = s.dec := rfl
@[simp] theorem encComplete_sink (st : Status) : (encComplete st s).sink = s.sink := rfl
@[simp] theorem encComplete_sinkAnswers (st : Status) : (encComplete st s).sinkAnswers = s.sinkAnswers := rfl
@[simp] theorem encComplete_source (st : Status) : (encComplete st s).source = s.source := rfl
@[simp] theorem encComplete_srcPos (st : Status) : (encComplete st s).srcPos = s.srcPos := rfl
@[simp] theorem encComplete_events (st : Status) : (encComplete st s).events = s.events := rfl
@[simp] theorem encComplete_results (st : Status) : (encComplete st s).results = s.results ++ [.enc st] := rfl
@[simp] theorem encComplete_observed (st : Status) : (encComplete st s).observed = s.observed := rfl
@[simp] theorem encComplete_freeCount (st : Status) : (encComplete st s).freeCount = s.freeCount := rfl

@[simp] theorem decCompleteOk_enc (v : Word) : (decCompleteOk v s).enc = s.enc := rfl
@[simp] theorem decCompleteOk_dec (v : Word) : (decCompleteOk v s).dec = { s.dec with phase := .idle, done := true, status := some .ok, value := some v } := rfl
@[simp] theorem decCompleteOk_sink (v : Word) : (decCompleteOk v s).sink = s.sink := rfl
@[simp] theorem decCompleteOk_sinkAnswers (v : Word) : (decCompleteOk v s).sinkAnswers = s.sinkAnswers := rfl
@[simp] theorem decCompleteOk_source (v : Word) : (decCompleteOk v s).source = s.source := rfl
@[simp] theorem decCompleteOk_srcPos (v : Word) : (decCompleteOk v s).srcPos = s.srcPos := rfl
@[simp] theorem decCompleteOk_events (v : Word) : (decCompleteOk v s).events = s.events := rfl
@[simp] theorem decCompleteOk_results (v : Word) : (decCompleteOk v s).results = s.results ++ [.dec .ok (some v)] := rfl
@[simp] theorem decCompleteOk_observed (v : Word) : (decCompleteOk v s).observed = s.observed := rfl
@[simp] theorem decCompleteOk_freeCount (v : Word) : (decCompleteOk v s).freeCount = s.freeCount := rfl

@[simp] theorem decCompleteError_enc (st : Status) : (decCompleteError st s).enc = s.enc := rfl
@[simp] theorem decCompleteError_dec (st : Status) : (decCompleteError st s).dec = { s.dec with phase := .idle, done := true, status := some st, value := none } := rfl
@[simp] theorem decCompleteError_sink (st : Status) : (decCompleteError st s).sink = s.sink := rfl
@[simp] theorem decCompleteError_sinkAnswers (st : Status) : (decCompleteError st s).sinkAnswers = s.sinkAnswers := rfl
@[simp] theorem decCompleteError_source (st : Status) : (decCompleteError st s).source = s.source := rfl
@[simp] theorem decCompleteError_srcPos (st : Status) : (decCompleteError st s).srcPos = s.srcPos := rfl
@[simp] theorem decCompleteError_events (st : Status) : (decCompleteError st s).events = s.events := rfl
@[simp] theorem decCompleteError_results (st : Status) : (decCompleteError st s).results = s.results ++ [.dec st none] := rfl
@[simp] theorem decCompleteError_observed (st : Status) : (decCompleteError st s).observed = s.observed := rfl
@[simp] theorem decCompleteError_freeCount (st : Status) : (decCompleteError st s).freeCount = s.freeCount := rfl

@[simp] theorem encStart_enc (v : Word) : (encStart v s).enc = { s.enc with phase := .emit, value := v, idx := 0#4, done := false, status := none } := rfl
@[simp] theorem encStart_dec (v : Word) : (encStart v s).dec = s.dec := rfl
@[simp] theorem encStart_sink (v : Word) : (encStart v s).sink = s.sink := rfl
@[simp] theorem encStart_sinkAnswers (v : Word) : (encStart v s).sinkAnswers = s.sinkAnswers := rfl
@[simp] theorem encStart_source (v : Word) : (encStart v s).source = s.source := rfl
@[simp] theorem encStart_srcPos (v : Word) : (encStart v s).srcPos = s.srcPos := rfl
@[simp] theorem encStart_events (v : Word) : (encStart v s).events = s.events := rfl
@[simp] theorem encStart_results (v : Word) : (encStart v s).results = s.results := rfl
@[simp] theorem encStart_observed (v : Word) : (encStart v s).observed = s.observed := rfl
@[simp] theorem encStart_freeCount (v : Word) : (encStart v s).freeCount = s.freeCount := rfl

@[simp] theorem decStart_enc : (decStart s).enc = s.enc := rfl
@[simp] theorem decStart_dec : (decStart s).dec = { s.dec with phase := .lead, done := false, status := none, value := none } := rfl
@[simp] theorem decStart_sink : (decStart s).sink = s.sink := rfl
@[simp] theorem decStart_sinkAnswers : (decStart s).sinkAnswers = s.sinkAnswers := rfl
@[simp] theorem decStart_source : (decStart s).source = s.source := rfl
@[simp] theorem decStart_srcPos : (decStart s).srcPos = s.srcPos := rfl
@[simp] theorem decStart_events : (decStart s).events = s.events := rfl
@[simp] theorem decStart_results : (decStart s).results = s.results := rfl
@[simp] theorem decStart_observed : (decStart s).observed = s.observed := rfl
@[simp] theorem decStart_freeCount : (decStart s).freeCount = s.freeCount := rfl

@[simp] theorem sinkWrite_enc (b : Byte) (r : SinkAnswer) : (sinkWrite b r s).enc = s.enc := by
  cases r <;> rfl
@[simp] theorem sinkWrite_dec (b : Byte) (r : SinkAnswer) : (sinkWrite b r s).dec = s.dec := by
  cases r <;> rfl
@[simp] theorem sinkWrite_sinkAnswers (b : Byte) (r : SinkAnswer) : (sinkWrite b r s).sinkAnswers = s.sinkAnswers.tail := by
  cases r <;> rfl
@[simp] theorem sinkWrite_source (b : Byte) (r : SinkAnswer) : (sinkWrite b r s).source = s.source := by
  cases r <;> rfl
@[simp] theorem sinkWrite_srcPos (b : Byte) (r : SinkAnswer) : (sinkWrite b r s).srcPos = s.srcPos := by
  cases r <;> rfl
@[simp] theorem sinkWrite_events (b : Byte) (r : SinkAnswer) : (sinkWrite b r s).events = s.events := by
  cases r <;> rfl
@[simp] theorem sinkWrite_results (b : Byte) (r : SinkAnswer) : (sinkWrite b r s).results = s.results := by
  cases r <;> rfl
@[simp] theorem sinkWrite_observed (b : Byte) (r : SinkAnswer) : (sinkWrite b r s).observed = s.observed := by
  cases r <;> rfl
@[simp] theorem sinkWrite_freeCount (b : Byte) (r : SinkAnswer) : (sinkWrite b r s).freeCount = s.freeCount := by
  cases r <;> rfl
@[simp] theorem sinkWrite_ok_sink (b : Byte) : (sinkWrite b .ok s).sink = s.sink ++ [b] := rfl
@[simp] theorem sinkWrite_err_sink (b : Byte) : (sinkWrite b .err s).sink = s.sink := rfl

@[simp] theorem srcRead_enc (r : SrcAnswer) : (srcRead r s).enc = s.enc := by
  cases r <;> rfl
@[simp] theorem srcRead_dec (r : SrcAnswer) : (srcRead r s).dec = s.dec := by
  cases r <;> rfl
@[simp] theorem srcRead_sink (r : SrcAnswer) : (srcRead r s).sink = s.sink := by
  cases r <;> rfl
@[simp] theorem srcRead_sinkAnswers (r : SrcAnswer) : (srcRead r s).sinkAnswers = s.sinkAnswers := by
  cases r <;> rfl
@[simp] theorem srcRead_source (r : SrcAnswer) : (srcRead r s).source = s.source.tail := by
  cases r <;> rfl
@[simp] theorem srcRead_events (r : SrcAnswer) : (srcRead r s).events = s.events := by
  cases r <;> rfl
@[simp] theorem srcRead_results (r : SrcAnswer) : (srcRead r s).results = s.results := by
  cases r <;> rfl
@[simp] theorem srcRead_observed (r : SrcAnswer) : (srcRead r s).observed = s.observed := by
  cases r <;> rfl
@[simp] theorem srcRead_freeCount (r : SrcAnswer) : (srcRead r s).freeCount = s.freeCount := by
  cases r <;> rfl
@[simp] theorem srcRead_byte_srcPos (b : Byte) : (srcRead (.byte b) s).srcPos = s.srcPos + 1 := rfl
@[simp] theorem srcRead_end_srcPos : (srcRead .endOfStream s).srcPos = s.srcPos := rfl
@[simp] theorem srcRead_err_srcPos : (srcRead .err s).srcPos = s.srcPos := rfl

@[simp] theorem resetCore_sink (x : Variant) (b : Option Byte) : (resetCore x b s).sink = sinkAfterReset x s := rfl
@[simp] theorem resetCore_sinkAnswers (x : Variant) (b : Option Byte) : (resetCore x b s).sinkAnswers = s.sinkAnswers := rfl
@[simp] theorem resetCore_source (x : Variant) (b : Option Byte) : (resetCore x b s).source = (sourceAfterReset b s).1 := rfl
@[simp] theorem resetCore_srcPos (x : Variant) (b : Option Byte) : (resetCore x b s).srcPos = (sourceAfterReset b s).2 := rfl
@[simp] theorem resetCore_events (x : Variant) (b : Option Byte) : (resetCore x b s).events = s.events := rfl
@[simp] theorem resetCore_results (x : Variant) (b : Option Byte) : (resetCore x b s).results = s.results := rfl
@[simp] theorem resetCore_observed (x : Variant) (b : Option Byte) : (resetCore x b s).observed = s.observed := rfl
@[simp] theorem resetCore_freeCount (x : Variant) (b : Option Byte) : (resetCore x b s).freeCount = s.freeCount + 5 := rfl
@[simp] theorem resetCore_enc_phase (x : Variant) (b : Option Byte) : (resetCore x b s).enc.phase = .idle := rfl
@[simp] theorem resetCore_enc_done (x : Variant) (b : Option Byte) : (resetCore x b s).enc.done = false := rfl
@[simp] theorem resetCore_dec_phase (x : Variant) (b : Option Byte) : (resetCore x b s).dec.phase = .idle := rfl
@[simp] theorem resetCore_dec_done (x : Variant) (b : Option Byte) : (resetCore x b s).dec.done = false := rfl
@[simp] theorem resetCore_enc_status (x : Variant) (b : Option Byte) : (resetCore x b s).enc.status = none := rfl
@[simp] theorem resetCore_dec_status (x : Variant) (b : Option Byte) : (resetCore x b s).dec.status = none := rfl
@[simp] theorem resetCore_dec_value (x : Variant) (b : Option Byte) : (resetCore x b s).dec.value = none := rfl

@[simp] theorem placeWord_enc (nbits w : Nat) : (placeWord nbits w s).enc = s.enc := rfl
@[simp] theorem placeWord_dec (nbits w : Nat) : (placeWord nbits w s).dec = { s.dec with phase := .lead, done := false, status := none, value := none } := rfl
@[simp] theorem placeWord_sink (nbits w : Nat) : (placeWord nbits w s).sink = s.sink := rfl
@[simp] theorem placeWord_sinkAnswers (nbits w : Nat) : (placeWord nbits w s).sinkAnswers = s.sinkAnswers := rfl
@[simp] theorem placeWord_source (nbits w : Nat) : (placeWord nbits w s).source = fetchAnswers nbits w := rfl
@[simp] theorem placeWord_srcPos (nbits w : Nat) : (placeWord nbits w s).srcPos = s.srcPos := rfl
@[simp] theorem placeWord_events (nbits w : Nat) : (placeWord nbits w s).events = s.events := rfl
@[simp] theorem placeWord_results (nbits w : Nat) : (placeWord nbits w s).results = s.results := rfl
@[simp] theorem placeWord_observed (nbits w : Nat) : (placeWord nbits w s).observed = s.observed := rfl
@[simp] theorem placeWord_freeCount (nbits w : Nat) : (placeWord nbits w s).freeCount = s.freeCount := rfl

end Sys2Proof.Machine
end

