-- ==== Sys2Proof/Laws/Ops.lean ====
section
/-! SUPPORT. What each shared operation can do, said once: the inversion and frame lemmas the proofs cite instead of
unfolding the operations. -/

namespace Sys2Proof.Machine

open Sys2Proof

/-! ### One operation after another -/

@[simp] theorem andThen_next {σ : Type} (t : σ) (f : σ → Host.Outcome σ Fault Refusal) :
    andThen (.next t) f = f t := rfl
@[simp] theorem andThen_fault {σ : Type} (e : Fault) (f : σ → Host.Outcome σ Fault Refusal) :
    andThen (.fault e) f = .fault e := rfl
@[simp] theorem andThen_refused {σ : Type} (e : Refusal) (f : σ → Host.Outcome σ Fault Refusal) :
    andThen (.refused e) f = .refused e := rfl

/-- If two operations after one another answer, the first one answered and the second one from there. -/
theorem andThen_eq_next {σ : Type} {o : Host.Outcome σ Fault Refusal} {f : σ → Host.Outcome σ Fault Refusal} {t : σ}
    (h : andThen o f = .next t) : ∃ u, o = .next u ∧ f u = .next t := by
  cases o with
  | next u => exact ⟨u, rfl, h⟩
  | fault e => cases h
  | refused e => cases h

/-- If two operations after one another are refused, one of them is. -/
theorem andThen_eq_refused {σ : Type} {o : Host.Outcome σ Fault Refusal} {f : σ → Host.Outcome σ Fault Refusal}
    {e : Refusal} (h : andThen o f = .refused e) : o = .refused e ∨ ∃ u, o = .next u ∧ f u = .refused e := by
  cases o with
  | next u => exact .inr ⟨u, rfl, h⟩
  | fault e => cases h
  | refused y => exact .inl h

/-! ### An operation performed by an instance (R14) -/

/-- If an operation answers for an instance's `VARIANT` and run state, the instance goes on in that run state. -/
theorem perform_of_next {op : Variant → RunState → Host.Outcome RunState Fault Refusal} {s : State} {m : RunState}
    (h : op s.variant s.run = .next m) : perform op s = .next { s with run := m } := by
  simp [perform, h]

/-- If an operation performed by an instance answers, `VARIANT` is as it was and the run state is the operation's. -/
theorem perform_eq_next {op : Variant → RunState → Host.Outcome RunState Fault Refusal} {s t : State}
    (h : perform op s = .next t) : op s.variant s.run = .next t.run ∧ t.variant = s.variant := by
  unfold perform at h
  split at h
  · rename_i m hm; cases h; exact ⟨hm, rfl⟩
  · cases h
  · cases h

/-- If an operation faults, so does the instance that performs it. -/
theorem perform_of_fault {op : Variant → RunState → Host.Outcome RunState Fault Refusal} {s : State} {e : Fault}
    (h : op s.variant s.run = .fault e) : perform op s = .fault e := by
  simp [perform, h]

/-- An operation that is never refused is not refused to an instance. -/
theorem perform_not_refused {op : Variant → RunState → Host.Outcome RunState Fault Refusal} {s : State} {r : Refusal}
    (h : op s.variant s.run ≠ .refused r) : perform op s ≠ .refused r := by
  unfold perform
  split
  · simp
  · simp
  · rename_i y hy; intro he; cases he; exact h hy

/-! ### The packer (R97) and ENC's run of transfers (R99) -/

variable {x : Variant}

/-- If the packer's step answers, a byte was presented, and it was refused, or accepted as the last one, or accepted with
more to come (R97). -/
theorem encTransfer_next {r : SinkAnswer} {s t : RunState} (h : encTransfer x r s = .next t) :
    ∃ b, packerByte x s = some b ∧
      ((r = .err ∧ t = encComplete .ioError (sinkWrite b .err s)) ∨
       (r = .ok ∧ s.enc.idx.toNat + 1 = (encodeValue x s.enc.value).length ∧
          t = encComplete .ok (sinkWrite b .ok s)) ∨
       (r = .ok ∧ s.enc.idx.toNat + 1 ≠ (encodeValue x s.enc.value).length ∧
          t = { sinkWrite b .ok s with enc := { s.enc with idx := s.enc.idx + 1#4 } })) := by
  unfold encTransfer at h
  split at h
  · cases h
  · rename_i b hb
    refine ⟨b, hb, ?_⟩
    cases r with
    | err => exact .inl ⟨rfl, by simpa using h.symm⟩
    | ok =>
      dsimp only at h
      split at h
      · rename_i hl; exact .inr (.inl ⟨rfl, hl, by simpa using h.symm⟩)
      · rename_i hl; exact .inr (.inr ⟨rfl, hl, by simpa using h.symm⟩)

/-- The packer's step is never refused. -/
theorem encTransfer_not_refused (r : SinkAnswer) (s : RunState) (e : Refusal) : encTransfer x r s ≠ .refused e := by
  unfold encTransfer
  split
  · simp
  · cases r
    · dsimp only; split <;> simp
    · simp

/-- What is the same before and after an operation of ENC: everything of DEC, of the source and of the platform's own
record; the sink keeps what it had (R10, R30, R39). -/
structure EncFrame (s t : RunState) : Prop where
  dec : t.dec = s.dec
  source : t.source = s.source
  srcPos : t.srcPos = s.srcPos
  events : t.events = s.events
  observed : t.observed = s.observed
  freeCount : t.freeCount = s.freeCount
  sink : s.sink <+: t.sink

theorem EncFrame.refl (s : RunState) : EncFrame s s := ⟨rfl, rfl, rfl, rfl, rfl, rfl, List.prefix_rfl⟩

theorem EncFrame.trans {s t u : RunState} (h : EncFrame s t) (k : EncFrame t u) : EncFrame s u :=
  ⟨k.dec.trans h.dec, k.source.trans h.source, k.srcPos.trans h.srcPos,
    k.events.trans h.events, k.observed.trans h.observed, k.freeCount.trans h.freeCount, h.sink.trans k.sink⟩

theorem encStart_frame (v : Word) (s : RunState) : EncFrame s (encStart v s) :=
  ⟨rfl, rfl, rfl, rfl, rfl, rfl, List.prefix_rfl⟩

theorem encTransfer_frame {r : SinkAnswer} {s t : RunState} (h : encTransfer x r s = .next t) : EncFrame s t := by
  obtain ⟨b, -, ⟨rfl, rfl⟩ | ⟨rfl, -, rfl⟩ | ⟨rfl, -, rfl⟩⟩ := encTransfer_next h <;>
    constructor <;> simp

theorem encRun_frame (rs : List SinkAnswer) {s t : RunState} (h : encRun x rs s = .next t) : EncFrame s t := by
  induction rs generalizing s with
  | nil => simp only [encRun, Host.Outcome.next.injEq] at h; exact h ▸ EncFrame.refl s
  | cons r rs ih =>
    simp only [encRun] at h
    split at h
    · simp only [Host.Outcome.next.injEq] at h; exact h ▸ EncFrame.refl s
    · obtain ⟨u, hu, hr⟩ := andThen_eq_next h
      exact (encTransfer_frame hu).trans (ih hr)

theorem encRun_not_refused (rs : List SinkAnswer) (s : RunState) (e : Refusal) : encRun x rs s ≠ .refused e := by
  induction rs generalizing s with
  | nil => simp [encRun]
  | cons r rs ih =>
    simp only [encRun]
    split
    · simp
    · intro h
      obtain h | ⟨u, -, h⟩ := andThen_eq_refused h
      · exact encTransfer_not_refused r s e h
      · exact ih u h

/-! ### DEC's steps (R112, R122) and its run of transfers (R129) -/

/-- If the payload step answers, the count was in range, and the byte was the last one or it was not (R122). -/
theorem payloadByte_next {b : Byte} {s t : RunState} (h : payloadByte x b s = .next t) :
    1 ≤ s.dec.rem.toNat ∧ s.dec.rem.toNat ≤ 8 ∧
      ((s.dec.rem = 1#4 ∧
          t = decCompleteOk (BitVec.ofNat 64 (base x s.dec.lead) +
            ((s.dec.acc <<< 8) ||| b.setWidth 64)) s) ∨
       (s.dec.rem ≠ 1#4 ∧
          t = { s with dec := { s.dec with
            acc := (s.dec.acc <<< 8) ||| b.setWidth 64, rem := s.dec.rem - 1#4 } })) := by
  simp only [payloadByte] at h
  split at h
  · cases h
  · rename_i hr
    refine ⟨by omega, by omega, ?_⟩
    split at h
    · rename_i h1; exact .inl ⟨h1, by simpa using h.symm⟩
    · rename_i h1; exact .inr ⟨h1, by simpa using h.symm⟩

/-- What the LEAD step leaves, by the class of the byte (R112). -/
theorem leadByte_cases (x : Variant) (L : Byte) (s : RunState) :
    (classify x L = .direct ∧ leadByte x L s = decCompleteOk (L.setWidth 64) s) ∨
    (classify x L = .sentinel ∧ leadByte x L s = decCompleteError .outOfRange s) ∨
    (∃ k n acc0, classify x L = .multi k n acc0 ∧ leadByte x L s = { s with dec := { s.dec with
        phase := .payload, lead := L, acc := BitVec.ofNat 64 acc0, rem := BitVec.ofNat 4 n } }) := by
  unfold leadByte
  cases h : classify x L with
  | direct => exact .inl ⟨rfl, rfl⟩
  | sentinel => exact .inr (.inl ⟨rfl, rfl⟩)
  | multi k n acc0 => exact .inr (.inr ⟨k, n, acc0, rfl, rfl⟩)

/-- What is the same before and after an operation of DEC: everything of ENC, of the sink and of the platform's own
record; the position of the source does not go back (R10, R30, R39). -/
structure DecFrame (s t : RunState) : Prop where
  enc : t.enc = s.enc
  sink : t.sink = s.sink
  sinkAnswers : t.sinkAnswers = s.sinkAnswers
  events : t.events = s.events
  observed : t.observed = s.observed
  freeCount : t.freeCount = s.freeCount
  srcPos : s.srcPos ≤ t.srcPos

theorem DecFrame.refl (s : RunState) : DecFrame s s := ⟨rfl, rfl, rfl, rfl, rfl, rfl, le_rfl⟩

theorem DecFrame.trans {s t u : RunState} (h : DecFrame s t) (k : DecFrame t u) : DecFrame s u :=
  ⟨k.enc.trans h.enc, k.sink.trans h.sink, k.sinkAnswers.trans h.sinkAnswers,
    k.events.trans h.events, k.observed.trans h.observed, k.freeCount.trans h.freeCount, h.srcPos.trans k.srcPos⟩

theorem decStart_frame (s : RunState) : DecFrame s (decStart s) := ⟨rfl, rfl, rfl, rfl, rfl, rfl, le_rfl⟩

theorem srcRead_frame (r : SrcAnswer) (s : RunState) : DecFrame s (srcRead r s) := by
  cases r <;> constructor <;> simp

theorem decCompleteOk_frame (v : Word) (s : RunState) : DecFrame s (decCompleteOk v s) := by
  constructor <;> simp

theorem decCompleteError_frame (st : Status) (s : RunState) : DecFrame s (decCompleteError st s) := by
  constructor <;> simp

theorem leadByte_frame (x : Variant) (L : Byte) (s : RunState) : DecFrame s (leadByte x L s) := by
  obtain ⟨-, h⟩ | ⟨-, h⟩ | ⟨k, n, a, -, h⟩ := leadByte_cases x L s <;> rw [h]
  · exact decCompleteOk_frame _ s
  · exact decCompleteError_frame _ s
  · constructor <;> simp

theorem payloadByte_frame {b : Byte} {s t : RunState} (h : payloadByte x b s = .next t) : DecFrame s t := by
  obtain ⟨-, -, ⟨-, rfl⟩ | ⟨-, rfl⟩⟩ := payloadByte_next h
  · exact decCompleteOk_frame _ s
  · constructor <;> simp

/-- If DEC's step answers: an idle DEC did nothing; `End` and `Err` completed; a byte went to the LEAD or to the PAYLOAD
step (R112, R122, R124, R125). -/
theorem decTransfer_next {r : SrcAnswer} {s t : RunState} (h : decTransfer x r s = .next t) :
    (s.dec.phase = .idle ∧ t = s) ∨
    (s.dec.phase ≠ .idle ∧ r = .endOfStream ∧ t = decCompleteError .truncated (srcRead .endOfStream s)) ∨
    (s.dec.phase ≠ .idle ∧ r = .err ∧ t = decCompleteError .ioError (srcRead .err s)) ∨
    (∃ b, s.dec.phase = .lead ∧ r = .byte b ∧ t = leadByte x b (srcRead (.byte b) s)) ∨
    (∃ b, s.dec.phase = .payload ∧ r = .byte b ∧ payloadByte x b (srcRead (.byte b) s) = .next t) := by
  unfold decTransfer at h
  cases hp : s.dec.phase <;> rw [hp] at h <;> cases r <;> simp_all

theorem decTransfer_frame {r : SrcAnswer} {s t : RunState} (h : decTransfer x r s = .next t) : DecFrame s t := by
  obtain ⟨-, rfl⟩ | ⟨-, -, rfl⟩ | ⟨-, -, rfl⟩ | ⟨b, -, -, rfl⟩ | ⟨b, -, -, h⟩ := decTransfer_next h
  · exact DecFrame.refl _
  · exact (srcRead_frame _ s).trans (decCompleteError_frame _ _)
  · exact (srcRead_frame _ s).trans (decCompleteError_frame _ _)
  · exact (srcRead_frame _ s).trans (leadByte_frame _ _ _)
  · exact (srcRead_frame _ s).trans (payloadByte_frame h)

theorem decTransfer_not_refused (r : SrcAnswer) (s : RunState) (e : Refusal) : decTransfer x r s ≠ .refused e := by
  unfold decTransfer payloadByte
  cases s.dec.phase <;> cases r <;> dsimp only <;> (try split) <;> (try split) <;> simp

theorem decRun_frame (rs : List SrcAnswer) {s t : RunState} (h : decRun x rs s = .next t) : DecFrame s t := by
  induction rs generalizing s with
  | nil => simp only [decRun, Host.Outcome.next.injEq] at h; exact h ▸ DecFrame.refl s
  | cons r rs ih =>
    simp only [decRun] at h
    split at h
    · simp only [Host.Outcome.next.injEq] at h; exact h ▸ DecFrame.refl s
    · obtain ⟨u, hu, hr⟩ := andThen_eq_next h
      exact (decTransfer_frame hu).trans (ih hr)

theorem decRun_not_refused (rs : List SrcAnswer) (s : RunState) (e : Refusal) : decRun x rs s ≠ .refused e := by
  induction rs generalizing s with
  | nil => simp [decRun]
  | cons r rs ih =>
    simp only [decRun]
    split
    · simp
    · intro h
      obtain h | ⟨u, -, h⟩ := andThen_eq_refused h
      · exact decTransfer_not_refused r s e h
      · exact ih u h

/-- A run of an idle DEC does nothing. -/
theorem decRun_idle (rs : List SrcAnswer) {s : RunState} (h : s.dec.phase = .idle) : decRun x rs s = .next s := by
  cases rs <;> simp [decRun, h]

/-- A run of an idle ENC does nothing. -/
theorem encRun_idle (rs : List SinkAnswer) {s : RunState} (h : s.enc.phase = .idle) : encRun x rs s = .next s := by
  cases rs <;> simp [encRun, h]

/-- A run of a DEC in flight is its first transfer and then the run of the rest. -/
theorem decRun_cons (r : SrcAnswer) (rs : List SrcAnswer) {s : RunState} (h : s.dec.phase ≠ .idle) :
    decRun x (r :: rs) s = andThen (decTransfer x r s) (decRun x rs) := by
  simp [decRun, h]

/-- A run of an ENC in flight is its first transfer and then the run of the rest. -/
theorem encRun_cons (r : SinkAnswer) (rs : List SinkAnswer) {s : RunState} (h : s.enc.phase = .emit) :
    encRun x (r :: rs) s = andThen (encTransfer x r s) (encRun x rs) := by
  simp [encRun, h]

theorem deliver_frame (bs : List Byte) {s t : RunState} (h : deliver x bs s = .next t) : DecFrame s t :=
  decRun_frame _ h

/-! ### The platform's operations -/

/-- A read that answers gave an observation and changed nothing but the record of reads (R24). -/
theorem observe_next {f : ResultField} {s t : RunState} (h : observe x f s = .next t) :
    ∃ o, readField x f s = some o ∧ t = { s with observed := s.observed ++ [o] } := by
  unfold observe at h
  split at h
  · rename_i o ho; exact ⟨o, ho, by simpa using h.symm⟩
  · cases h

/-- An event that does nothing with a unit never waits. -/
@[simp] theorem waits_of_no_unit (s : RunState) (held : List CoreUnit) {e : Event} (h : e.unit = none) :
    e.waits s held = false := by
  simp [Event.waits, h]

/-- A start command waits exactly while its unit is busy, when no command is held before it (R16, R18). -/
@[simp] theorem encStart_waits (s : RunState) (v : Word) :
    (Event.encStart v).waits s [] = !decide (s.enc.phase = .idle) := by
  simp [Event.waits, Event.unit, Event.instr, unitIdle]

@[simp] theorem decStart_waits (s : RunState) : Event.decStart.waits s [] = !decide (s.dec.phase = .idle) := by
  simp [Event.waits, Event.unit, Event.instr, unitIdle]

/-- A read waits only behind a held command of its unit. -/
@[simp] theorem read_waits (s : RunState) (f : ResultField) : (Event.read f).waits s [] = false := by
  cases f <;> simp [Event.waits, Event.unit, Event.instr]

@[simp] theorem firstFree_nil (s : RunState) (held : List CoreUnit) : firstFree s held [] = none := rfl

/-- An event that has not to wait is the one that happens. -/
theorem firstFree_free {s : RunState} {held : List CoreUnit} {e : Event} (es : List Event)
    (h : e.waits s held = false) : firstFree s held (e :: es) = some (e, es) := by
  simp [firstFree, h]

/-- An event that has to wait stays pending before whatever happens. -/
theorem firstFree_waits {s : RunState} {held : List CoreUnit} {e : Event} (es : List Event)
    (h : e.waits s held = true) : firstFree s held (e :: es) =
      (firstFree s (e.unit.toList ++ held) es).map fun p => (p.1, e :: p.2) := by
  simp [firstFree, h]

/-- A command of a busy unit waits whatever is held. -/
theorem waits_of_busy {s : RunState} {e : Event} {u : CoreUnit} (held : List CoreUnit) (hu : e.unit = some u)
    (hi : e.instr.isSome = true) (hb : unitIdle s u = false) : e.waits s held = true := by
  simp [Event.waits, hu, hi, hb]

/-- The event that happens was in the list, the others stay in their order, and a command that happens has an idle unit. -/
theorem firstFree_eq_some {s : RunState} {held : List CoreUnit} {evs es : List Event} {e : Event}
    (h : firstFree s held evs = some (e, es)) : ∃ pre post, evs = pre ++ e :: post ∧ es = pre ++ post ∧
      (e.instr.isSome = true → ∀ u, e.unit = some u → unitIdle s u = true) := by
  induction evs generalizing held es with
  | nil => cases h
  | cons a evs ih =>
    cases hw : a.waits s held with
    | false =>
      rw [firstFree_free evs hw] at h
      cases h
      refine ⟨[], evs, rfl, rfl, fun hi u hu => ?_⟩
      simp only [Event.waits, hu, hi, Bool.true_and, Bool.or_eq_false_iff, Bool.not_eq_false'] at hw
      exact hw.2
    | true =>
      rw [firstFree_waits evs hw, Option.map_eq_some_iff] at h
      obtain ⟨⟨e', es'⟩, h', heq⟩ := h
      cases heq
      obtain ⟨pre, post, rfl, rfl, hi⟩ := ih h'
      exact ⟨a :: pre, post, rfl, rfl, hi⟩

/-! ### The sink as memory cells (R9, R31) -/

theorem cellsFrom_wf (pos : Nat) (bs : List Byte) : Memory.wf (cellsFrom pos bs) = true := by
  induction bs generalizing pos with
  | nil => rfl
  | cons b bs ih =>
    cases bs with
    | nil => rfl
    | cons c cs => simpa [cellsFrom, Memory.wf] using ih (pos + 1)

/-- The sink's cells are in canonical form in every state: no operation can break it. -/
theorem sinkCells_wf (s : RunState) : Memory.wf s.sinkCells = true := cellsFrom_wf 0 s.sink

theorem cellsFrom_append (pos : Nat) (bs : List Byte) (b : Byte) :
    cellsFrom pos (bs ++ [b]) = cellsFrom pos bs ++ [(pos + bs.length, b)] := by
  induction bs generalizing pos with
  | nil => rfl
  | cons c cs ih => simp [cellsFrom, ih, Nat.add_assoc, Nat.add_comm 1]

/-- `SinkWrite(b)` answered `Ok` is `MemWrite(sink_pos, 1, b)` (R9). -/
theorem sinkWrite_ok_cells (b : Byte) (s : RunState) :
    (sinkWrite b .ok s).sinkCells = s.sinkCells ++ [(s.sinkPos, b)] := by
  simp [RunState.sinkCells, RunState.sinkPos, cellsFrom_append]

/-- The position a sink write stores to is `sink_pos`; every other position reads as before (R32). -/
theorem sinkWrite_sinkByte (b : Byte) (r : SinkAnswer) (s : RunState) {pos : Nat} (h : pos ≠ s.sinkPos) :
    (sinkWrite b r s).sinkByte pos = s.sinkByte pos := by
  cases r with
  | err => rfl
  | ok =>
    simp only [RunState.sinkByte, RunState.sinkPos, sinkWrite_ok_sink] at h ⊢
    rcases Nat.lt_or_gt_of_ne h with h | h
    · exact List.getElem?_append_left h
    · rw [List.getElem?_eq_none (by simp; omega), List.getElem?_eq_none (by omega)]

/-! ### Byte order (R7) -/

@[simp] theorem be_length (v w : Nat) : (be v w).length = w := by
  induction w with
  | zero => rfl
  | succ w ih => simp [be, ih]

theorem statusOfCode_statusCode (st : Status) : statusOfCode (statusCode st) = st := by cases st <;> rfl

end Sys2Proof.Machine
end

