-- ==== Sys2Proof/Laws/PerInstr.lean ====
section
/-! SUPPORT. The per-instruction family RowShape: the bytes of every well-formed wire form fit the row of
spec/opcode_table.json the form stands for (R72), and every command's tag and operand decode to it (R69). -/

namespace Sys2Proof.Laws.RowShape

open Sys2Proof

/-- The bytes of a form fit a row: the row covers the leading byte, the byte lies in its range, the length is the row's. -/
def Fits (r : FormRow) (bs : List Byte) : Prop :=
  ∃ (L : Byte) (t : List Byte), bs = L :: t ∧ r.covers L = true ∧ r.leadLo.toNat ≤ L.toNat ∧
    L.toNat ≤ r.leadHi.toNat ∧ t.length + 1 = r.length

/-- A well-formed form fits the one row of its variant that bears its mnemonic (R72); a command is read back from its
tag and operand (R69). -/
def Statement (i : Instr) : Prop :=
  (∀ x : Variant, WellFormed x i = true → i.isForm = true →
    ∃ r ∈ formRows x, r.mnemonic = i.mnemonic ∧ Fits r i.bytes) ∧
  (i.isForm = false → ∃ (tag : BitVec 1) (operand : Option Word),
    encode i = .command tag operand ∧ decodeCommand tag operand = .ok i)

/-- A form of one variant whose bytes fit a row of that variant under its mnemonic. -/
theorem of_row {x₀ : Variant} {i : Instr} (r : FormRow) (hx : ∀ x, WellFormed x i = true → x = x₀)
    (hr : r ∈ formRows x₀) (hm : r.mnemonic = i.mnemonic) (hf : i.isForm = true)
    (h : WellFormed x₀ i = true → Fits r i.bytes) : Statement i := by
  refine ⟨fun x hw _ => ?_, fun h => by rw [hf] at h; cases h⟩
  obtain rfl := hx x hw
  exact ⟨r, hr, hm, h hw⟩

theorem aDirect0_range : ∀ b0 : Byte, WellFormed .a (.aDirect0 b0) = true →
    ((formRows .a)[0]'(by decide)).covers b0 = true ∧ ((formRows .a)[0]'(by decide)).leadLo.toNat ≤ b0.toNat ∧
      b0.toNat ≤ ((formRows .a)[0]'(by decide)).leadHi.toNat := by decide

theorem aDirect0 (b0 : Byte) : Statement (.aDirect0 b0) :=
  of_row (x₀ := .a) ((formRows .a)[0]'(by decide)) (fun x h => by cases x <;> first | rfl | cases h)
    (List.getElem_mem _) rfl rfl (fun h => ⟨b0, [], rfl, (aDirect0_range b0 h).1, (aDirect0_range b0 h).2.1, (aDirect0_range b0 h).2.2, rfl⟩)

theorem aDirect1_range : ∀ b0 : Byte, WellFormed .a (.aDirect1 b0) = true →
    ((formRows .a)[1]'(by decide)).covers b0 = true ∧ ((formRows .a)[1]'(by decide)).leadLo.toNat ≤ b0.toNat ∧
      b0.toNat ≤ ((formRows .a)[1]'(by decide)).leadHi.toNat := by decide

theorem aDirect1 (b0 : Byte) : Statement (.aDirect1 b0) :=
  of_row (x₀ := .a) ((formRows .a)[1]'(by decide)) (fun x h => by cases x <;> first | rfl | cases h)
    (List.getElem_mem _) rfl rfl (fun h => ⟨b0, [], rfl, (aDirect1_range b0 h).1, (aDirect1_range b0 h).2.1, (aDirect1_range b0 h).2.2, rfl⟩)

theorem aDirect2_range : ∀ b0 : Byte, WellFormed .a (.aDirect2 b0) = true →
    ((formRows .a)[2]'(by decide)).covers b0 = true ∧ ((formRows .a)[2]'(by decide)).leadLo.toNat ≤ b0.toNat ∧
      b0.toNat ≤ ((formRows .a)[2]'(by decide)).leadHi.toNat := by decide

theorem aDirect2 (b0 : Byte) : Statement (.aDirect2 b0) :=
  of_row (x₀ := .a) ((formRows .a)[2]'(by decide)) (fun x h => by cases x <;> first | rfl | cases h)
    (List.getElem_mem _) rfl rfl (fun h => ⟨b0, [], rfl, (aDirect2_range b0 h).1, (aDirect2_range b0 h).2.1, (aDirect2_range b0 h).2.2, rfl⟩)

theorem aDirect3_range : ∀ b0 : Byte, WellFormed .a (.aDirect3 b0) = true →
    ((formRows .a)[3]'(by decide)).covers b0 = true ∧ ((formRows .a)[3]'(by decide)).leadLo.toNat ≤ b0.toNat ∧
      b0.toNat ≤ ((formRows .a)[3]'(by decide)).leadHi.toNat := by decide

theorem aDirect3 (b0 : Byte) : Statement (.aDirect3 b0) :=
  of_row (x₀ := .a) ((formRows .a)[3]'(by decide)) (fun x h => by cases x <;> first | rfl | cases h)
    (List.getElem_mem _) rfl rfl (fun h => ⟨b0, [], rfl, (aDirect3_range b0 h).1, (aDirect3_range b0 h).2.1, (aDirect3_range b0 h).2.2, rfl⟩)

theorem aDirect4_range : ∀ b0 : Byte, WellFormed .a (.aDirect4 b0) = true →
    ((formRows .a)[4]'(by decide)).covers b0 = true ∧ ((formRows .a)[4]'(by decide)).leadLo.toNat ≤ b0.toNat ∧
      b0.toNat ≤ ((formRows .a)[4]'(by decide)).leadHi.toNat := by decide

theorem aDirect4 (b0 : Byte) : Statement (.aDirect4 b0) :=
  of_row (x₀ := .a) ((formRows .a)[4]'(by decide)) (fun x h => by cases x <;> first | rfl | cases h)
    (List.getElem_mem _) rfl rfl (fun h => ⟨b0, [], rfl, (aDirect4_range b0 h).1, (aDirect4_range b0 h).2.1, (aDirect4_range b0 h).2.2, rfl⟩)

theorem aDirect5_range : ∀ b0 : Byte, WellFormed .a (.aDirect5 b0) = true →
    ((formRows .a)[5]'(by decide)).covers b0 = true ∧ ((formRows .a)[5]'(by decide)).leadLo.toNat ≤ b0.toNat ∧
      b0.toNat ≤ ((formRows .a)[5]'(by decide)).leadHi.toNat := by decide

theorem aDirect5 (b0 : Byte) : Statement (.aDirect5 b0) :=
  of_row (x₀ := .a) ((formRows .a)[5]'(by decide)) (fun x h => by cases x <;> first | rfl | cases h)
    (List.getElem_mem _) rfl rfl (fun h => ⟨b0, [], rfl, (aDirect5_range b0 h).1, (aDirect5_range b0 h).2.1, (aDirect5_range b0 h).2.2, rfl⟩)

theorem aDirect6_range : ∀ b0 : Byte, WellFormed .a (.aDirect6 b0) = true →
    ((formRows .a)[6]'(by decide)).covers b0 = true ∧ ((formRows .a)[6]'(by decide)).leadLo.toNat ≤ b0.toNat ∧
      b0.toNat ≤ ((formRows .a)[6]'(by decide)).leadHi.toNat := by decide

theorem aDirect6 (b0 : Byte) : Statement (.aDirect6 b0) :=
  of_row (x₀ := .a) ((formRows .a)[6]'(by decide)) (fun x h => by cases x <;> first | rfl | cases h)
    (List.getElem_mem _) rfl rfl (fun h => ⟨b0, [], rfl, (aDirect6_range b0 h).1, (aDirect6_range b0 h).2.1, (aDirect6_range b0 h).2.2, rfl⟩)

theorem aGen1 (b1 : Byte) : Statement (.aGen1 b1) :=
  of_row (x₀ := .a) ((formRows .a)[7]'(by decide)) (fun x h => by cases x <;> first | rfl | cases h)
    (List.getElem_mem _) rfl rfl (fun _ => ⟨_, _, rfl, by decide, by decide, by decide, rfl⟩)

theorem aGen2 (b1 b2 : Byte) : Statement (.aGen2 b1 b2) :=
  of_row (x₀ := .a) ((formRows .a)[8]'(by decide)) (fun x h => by cases x <;> first | rfl | cases h)
    (List.getElem_mem _) rfl rfl (fun _ => ⟨_, _, rfl, by decide, by decide, by decide, rfl⟩)

theorem aGen3 (b1 b2 b3 : Byte) : Statement (.aGen3 b1 b2 b3) :=
  of_row (x₀ := .a) ((formRows .a)[9]'(by decide)) (fun x h => by cases x <;> first | rfl | cases h)
    (List.getElem_mem _) rfl rfl (fun _ => ⟨_, _, rfl, by decide, by decide, by decide, rfl⟩)

theorem aGen4 (b1 b2 b3 b4 : Byte) : Statement (.aGen4 b1 b2 b3 b4) :=
  of_row (x₀ := .a) ((formRows .a)[10]'(by decide)) (fun x h => by cases x <;> first | rfl | cases h)
    (List.getElem_mem _) rfl rfl (fun _ => ⟨_, _, rfl, by decide, by decide, by decide, rfl⟩)

theorem aGen5 (b1 b2 b3 b4 b5 : Byte) : Statement (.aGen5 b1 b2 b3 b4 b5) :=
  of_row (x₀ := .a) ((formRows .a)[11]'(by decide)) (fun x h => by cases x <;> first | rfl | cases h)
    (List.getElem_mem _) rfl rfl (fun _ => ⟨_, _, rfl, by decide, by decide, by decide, rfl⟩)

theorem aGen6 (b1 b2 b3 b4 b5 b6 : Byte) : Statement (.aGen6 b1 b2 b3 b4 b5 b6) :=
  of_row (x₀ := .a) ((formRows .a)[12]'(by decide)) (fun x h => by cases x <;> first | rfl | cases h)
    (List.getElem_mem _) rfl rfl (fun _ => ⟨_, _, rfl, by decide, by decide, by decide, rfl⟩)

theorem aGen7 (b1 b2 b3 b4 b5 b6 b7 : Byte) : Statement (.aGen7 b1 b2 b3 b4 b5 b6 b7) :=
  of_row (x₀ := .a) ((formRows .a)[13]'(by decide)) (fun x h => by cases x <;> first | rfl | cases h)
    (List.getElem_mem _) rfl rfl (fun _ => ⟨_, _, rfl, by decide, by decide, by decide, rfl⟩)

theorem aGen8 (b1 b2 b3 b4 b5 b6 b7 b8 : Byte) : Statement (.aGen8 b1 b2 b3 b4 b5 b6 b7 b8) :=
  of_row (x₀ := .a) ((formRows .a)[14]'(by decide)) (fun x h => by cases x <;> first | rfl | cases h)
    (List.getElem_mem _) rfl rfl (fun _ => ⟨_, _, rfl, by decide, by decide, by decide, rfl⟩)

theorem aSentinel : Statement .aSentinel :=
  of_row (x₀ := .a) ((formRows .a)[15]'(by decide)) (fun x h => by cases x <;> first | rfl | cases h)
    (List.getElem_mem _) rfl rfl (fun _ => ⟨_, _, rfl, by decide, by decide, by decide, rfl⟩)

theorem bDirect0_range : ∀ b0 : Byte, WellFormed .b (.bDirect0 b0) = true →
    ((formRows .b)[0]'(by decide)).covers b0 = true ∧ ((formRows .b)[0]'(by decide)).leadLo.toNat ≤ b0.toNat ∧
      b0.toNat ≤ ((formRows .b)[0]'(by decide)).leadHi.toNat := by decide

theorem bDirect0 (b0 : Byte) : Statement (.bDirect0 b0) :=
  of_row (x₀ := .b) ((formRows .b)[0]'(by decide)) (fun x h => by cases x <;> first | rfl | cases h)
    (List.getElem_mem _) rfl rfl (fun h => ⟨b0, [], rfl, (bDirect0_range b0 h).1, (bDirect0_range b0 h).2.1, (bDirect0_range b0 h).2.2, rfl⟩)

theorem bDirect1_range : ∀ b0 : Byte, WellFormed .b (.bDirect1 b0) = true →
    ((formRows .b)[1]'(by decide)).covers b0 = true ∧ ((formRows .b)[1]'(by decide)).leadLo.toNat ≤ b0.toNat ∧
      b0.toNat ≤ ((formRows .b)[1]'(by decide)).leadHi.toNat := by decide

theorem bDirect1 (b0 : Byte) : Statement (.bDirect1 b0) :=
  of_row (x₀ := .b) ((formRows .b)[1]'(by decide)) (fun x h => by cases x <;> first | rfl | cases h)
    (List.getElem_mem _) rfl rfl (fun h => ⟨b0, [], rfl, (bDirect1_range b0 h).1, (bDirect1_range b0 h).2.1, (bDirect1_range b0 h).2.2, rfl⟩)

theorem bDirect2_range : ∀ b0 : Byte, WellFormed .b (.bDirect2 b0) = true →
    ((formRows .b)[2]'(by decide)).covers b0 = true ∧ ((formRows .b)[2]'(by decide)).leadLo.toNat ≤ b0.toNat ∧
      b0.toNat ≤ ((formRows .b)[2]'(by decide)).leadHi.toNat := by decide

theorem bDirect2 (b0 : Byte) : Statement (.bDirect2 b0) :=
  of_row (x₀ := .b) ((formRows .b)[2]'(by decide)) (fun x h => by cases x <;> first | rfl | cases h)
    (List.getElem_mem _) rfl rfl (fun h => ⟨b0, [], rfl, (bDirect2_range b0 h).1, (bDirect2_range b0 h).2.1, (bDirect2_range b0 h).2.2, rfl⟩)

theorem bDirect3_range : ∀ b0 : Byte, WellFormed .b (.bDirect3 b0) = true →
    ((formRows .b)[3]'(by decide)).covers b0 = true ∧ ((formRows .b)[3]'(by decide)).leadLo.toNat ≤ b0.toNat ∧
      b0.toNat ≤ ((formRows .b)[3]'(by decide)).leadHi.toNat := by decide

theorem bDirect3 (b0 : Byte) : Statement (.bDirect3 b0) :=
  of_row (x₀ := .b) ((formRows .b)[3]'(by decide)) (fun x h => by cases x <;> first | rfl | cases h)
    (List.getElem_mem _) rfl rfl (fun h => ⟨b0, [], rfl, (bDirect3_range b0 h).1, (bDirect3_range b0 h).2.1, (bDirect3_range b0 h).2.2, rfl⟩)

theorem bDirect4_range : ∀ b0 : Byte, WellFormed .b (.bDirect4 b0) = true →
    ((formRows .b)[4]'(by decide)).covers b0 = true ∧ ((formRows .b)[4]'(by decide)).leadLo.toNat ≤ b0.toNat ∧
      b0.toNat ≤ ((formRows .b)[4]'(by decide)).leadHi.toNat := by decide

theorem bDirect4 (b0 : Byte) : Statement (.bDirect4 b0) :=
  of_row (x₀ := .b) ((formRows .b)[4]'(by decide)) (fun x h => by cases x <;> first | rfl | cases h)
    (List.getElem_mem _) rfl rfl (fun h => ⟨b0, [], rfl, (bDirect4_range b0 h).1, (bDirect4_range b0 h).2.1, (bDirect4_range b0 h).2.2, rfl⟩)

theorem bT2k0 (b1 : Byte) : Statement (.bT2k0 b1) :=
  of_row (x₀ := .b) ((formRows .b)[5]'(by decide)) (fun x h => by cases x <;> first | rfl | cases h)
    (List.getElem_mem _) rfl rfl (fun _ => ⟨_, _, rfl, by decide, by decide, by decide, rfl⟩)

theorem bT2k1 (b1 : Byte) : Statement (.bT2k1 b1) :=
  of_row (x₀ := .b) ((formRows .b)[6]'(by decide)) (fun x h => by cases x <;> first | rfl | cases h)
    (List.getElem_mem _) rfl rfl (fun _ => ⟨_, _, rfl, by decide, by decide, by decide, rfl⟩)

theorem bT2k2 (b1 : Byte) : Statement (.bT2k2 b1) :=
  of_row (x₀ := .b) ((formRows .b)[7]'(by decide)) (fun x h => by cases x <;> first | rfl | cases h)
    (List.getElem_mem _) rfl rfl (fun _ => ⟨_, _, rfl, by decide, by decide, by decide, rfl⟩)

theorem bT2k3 (b1 : Byte) : Statement (.bT2k3 b1) :=
  of_row (x₀ := .b) ((formRows .b)[8]'(by decide)) (fun x h => by cases x <;> first | rfl | cases h)
    (List.getElem_mem _) rfl rfl (fun _ => ⟨_, _, rfl, by decide, by decide, by decide, rfl⟩)

theorem bT2k4 (b1 : Byte) : Statement (.bT2k4 b1) :=
  of_row (x₀ := .b) ((formRows .b)[9]'(by decide)) (fun x h => by cases x <;> first | rfl | cases h)
    (List.getElem_mem _) rfl rfl (fun _ => ⟨_, _, rfl, by decide, by decide, by decide, rfl⟩)

theorem bT2k5 (b1 : Byte) : Statement (.bT2k5 b1) :=
  of_row (x₀ := .b) ((formRows .b)[10]'(by decide)) (fun x h => by cases x <;> first | rfl | cases h)
    (List.getElem_mem _) rfl rfl (fun _ => ⟨_, _, rfl, by decide, by decide, by decide, rfl⟩)

theorem bT2k6 (b1 : Byte) : Statement (.bT2k6 b1) :=
  of_row (x₀ := .b) ((formRows .b)[11]'(by decide)) (fun x h => by cases x <;> first | rfl | cases h)
    (List.getElem_mem _) rfl rfl (fun _ => ⟨_, _, rfl, by decide, by decide, by decide, rfl⟩)

theorem bT3 (b1 b2 : Byte) : Statement (.bT3 b1 b2) :=
  of_row (x₀ := .b) ((formRows .b)[12]'(by decide)) (fun x h => by cases x <;> first | rfl | cases h)
    (List.getElem_mem _) rfl rfl (fun _ => ⟨_, _, rfl, by decide, by decide, by decide, rfl⟩)

theorem bGen3 (b1 b2 b3 : Byte) : Statement (.bGen3 b1 b2 b3) :=
  of_row (x₀ := .b) ((formRows .b)[13]'(by decide)) (fun x h => by cases x <;> first | rfl | cases h)
    (List.getElem_mem _) rfl rfl (fun _ => ⟨_, _, rfl, by decide, by decide, by decide, rfl⟩)

theorem bGen4 (b1 b2 b3 b4 : Byte) : Statement (.bGen4 b1 b2 b3 b4) :=
  of_row (x₀ := .b) ((formRows .b)[14]'(by decide)) (fun x h => by cases x <;> first | rfl | cases h)
    (List.getElem_mem _) rfl rfl (fun _ => ⟨_, _, rfl, by decide, by decide, by decide, rfl⟩)

theorem bGen5 (b1 b2 b3 b4 b5 : Byte) : Statement (.bGen5 b1 b2 b3 b4 b5) :=
  of_row (x₀ := .b) ((formRows .b)[15]'(by decide)) (fun x h => by cases x <;> first | rfl | cases h)
    (List.getElem_mem _) rfl rfl (fun _ => ⟨_, _, rfl, by decide, by decide, by decide, rfl⟩)

theorem bGen6 (b1 b2 b3 b4 b5 b6 : Byte) : Statement (.bGen6 b1 b2 b3 b4 b5 b6) :=
  of_row (x₀ := .b) ((formRows .b)[16]'(by decide)) (fun x h => by cases x <;> first | rfl | cases h)
    (List.getElem_mem _) rfl rfl (fun _ => ⟨_, _, rfl, by decide, by decide, by decide, rfl⟩)

theorem bGen7 (b1 b2 b3 b4 b5 b6 b7 : Byte) : Statement (.bGen7 b1 b2 b3 b4 b5 b6 b7) :=
  of_row (x₀ := .b) ((formRows .b)[17]'(by decide)) (fun x h => by cases x <;> first | rfl | cases h)
    (List.getElem_mem _) rfl rfl (fun _ => ⟨_, _, rfl, by decide, by decide, by decide, rfl⟩)

theorem bGen8 (b1 b2 b3 b4 b5 b6 b7 b8 : Byte) : Statement (.bGen8 b1 b2 b3 b4 b5 b6 b7 b8) :=
  of_row (x₀ := .b) ((formRows .b)[18]'(by decide)) (fun x h => by cases x <;> first | rfl | cases h)
    (List.getElem_mem _) rfl rfl (fun _ => ⟨_, _, rfl, by decide, by decide, by decide, rfl⟩)

theorem bSentinel : Statement .bSentinel :=
  of_row (x₀ := .b) ((formRows .b)[19]'(by decide)) (fun x h => by cases x <;> first | rfl | cases h)
    (List.getElem_mem _) rfl rfl (fun _ => ⟨_, _, rfl, by decide, by decide, by decide, rfl⟩)

theorem encode (v : Word) : Statement (.encode v) :=
  ⟨fun _ _ h => (by cases h), fun _ => ⟨_, _, rfl, rfl⟩⟩

theorem decode : Statement .decode :=
  ⟨fun _ _ h => (by cases h), fun _ => ⟨_, _, rfl, rfl⟩⟩

end Sys2Proof.Laws.RowShape
end

