-- ==== Sys2Proof/Laws/Run.lean ====
section
/-! SUPPORT. What a run of DEC's transfers over bytes leaves, in closed form: the payload so far, the last payload byte, a
whole multi-byte value (R112, R122, R123). -/

namespace Sys2Proof.Machine

open Sys2Proof

variable {x : Variant}

/-- The payload step's shift and or (R122) are a multiplication and an addition modulo 2^64. -/
theorem shiftIn_eq (a : Word) (b : Byte) :
    (a <<< 8) ||| b.setWidth 64 = BitVec.ofNat 64 (a.toNat * 256 + b.toNat) := by
  apply BitVec.eq_of_getLsbD_eq
  intro i hi
  have e : a.toNat * 256 + b.toNat = a.toNat <<< 8 ||| b.toNat := by
    rw [← Nat.shiftLeft_add_eq_or_of_lt b.isLt, Nat.shiftLeft_eq]
  rw [e]
  simp only [BitVec.getLsbD_or, BitVec.getLsbD_shiftLeft, BitVec.getLsbD_setWidth, BitVec.getLsbD_ofNat,
    Nat.testBit_or, Nat.testBit_shiftLeft, BitVec.testBit_toNat, hi, decide_true, Bool.true_and]
  by_cases h : i < 8
  · simp [h]
  · simp [h, show 8 ≤ i by omega]

/-- The big-endian reading of two sequences after one another (R7). -/
theorem beval_append (s t : List Byte) : beval (s ++ t) = beval s * 256 ^ t.length + beval t := by
  induction s with
  | nil => simp [beval]
  | cons b s ih => simp [beval, ih, pow_add]; ring

/-- DEC in PAYLOAD with `p` payload bytes more read (R122, R123). -/
def afterPart (p : List Byte) (s : RunState) : RunState :=
  { s with
    source := s.source.drop p.length
    srcPos := s.srcPos + p.length
    dec := { s.dec with
      acc := BitVec.ofNat 64 (s.dec.acc.toNat * 256 ^ p.length + beval p)
      rem := s.dec.rem - BitVec.ofNat 4 p.length } }

theorem afterPart_nil (s : RunState) : afterPart [] s = s := by
  simp [afterPart, beval]

/-- Reducing an accumulator to 64 bits before shifting it changes nothing modulo 2^64. -/
theorem ofNat_reduced (a m c : Nat) :
    BitVec.ofNat 64 ((BitVec.ofNat 64 a).toNat * m + c) = BitVec.ofNat 64 (a * m + c) := by
  rw [BitVec.ofNat_add, BitVec.ofNat_mul, BitVec.ofNat_toNat, BitVec.setWidth_eq, ← BitVec.ofNat_mul, ← BitVec.ofNat_add]

theorem afterPart_cons (b : Byte) (p : List Byte) (s : RunState) :
    afterPart p (afterPart [b] s) = afterPart (b :: p) s := by
  have h1 : BitVec.ofNat 64 ((BitVec.ofNat 64 (s.dec.acc.toNat * 256 ^ [b].length + beval [b])).toNat * 256 ^ p.length +
      beval p) = BitVec.ofNat 64 (s.dec.acc.toNat * 256 ^ (b :: p).length + beval (b :: p)) := by
    rw [ofNat_reduced]
    congr 1
    simp only [beval, List.length_cons, List.length_nil, pow_succ]
    ring
  have h2 : s.dec.rem - BitVec.ofNat 4 [b].length - BitVec.ofNat 4 p.length =
      s.dec.rem - BitVec.ofNat 4 (b :: p).length := by
    have : BitVec.ofNat 4 (b :: p).length = BitVec.ofNat 4 p.length + 1#4 := by
      apply BitVec.eq_of_toNat_eq; simp
    rw [this]
    simp only [List.length_cons, List.length_nil]
    bv_omega
  have h3 : s.srcPos + [b].length + p.length = s.srcPos + (b :: p).length := by simp; omega
  have h4 : (s.source.drop [b].length).drop p.length = s.source.drop (b :: p).length := by
    rw [List.drop_drop]; congr 1; simp; omega
  simp only [afterPart, h1, h2, h3, h4]

/-- A payload byte that is not the last one (R122). -/
theorem decTransfer_more (b : Byte) {s : RunState} (hp : s.dec.phase = .payload)
    (hm : 1 < s.dec.rem.toNat) (h8 : s.dec.rem.toNat ≤ 8) :
    decTransfer x (.byte b) s = .next (afterPart [b] s) := by
  have hrem : s.dec.rem ≠ 1#4 := fun h => by rw [h] at hm; simp at hm
  simp only [decTransfer, hp, payloadByte, srcRead_dec, hrem, if_false]
  rw [if_neg (by omega)]
  simp [afterPart, shiftIn_eq, beval, srcRead, List.drop_one, hp]

/-- A run over payload bytes that are not the last (R122). -/
theorem decRun_payload_part (p : List Byte) (rest : List SrcAnswer) {s : RunState} (hp : s.dec.phase = .payload)
    (hm : p.length < s.dec.rem.toNat) (h8 : s.dec.rem.toNat ≤ 8) :
    decRun x (p.map .byte ++ rest) s = decRun x rest (afterPart p s) := by
  induction p generalizing s with
  | nil => simp [afterPart_nil]
  | cons b p ih =>
    simp only [List.length_cons] at hm
    have hsub : (afterPart [b] s).dec.rem.toNat = s.dec.rem.toNat - 1 := by
      simp only [afterPart, List.length_cons, List.length_nil]; bv_omega
    rw [List.map_cons, List.cons_append, decRun_cons _ _ (by simp [hp]), decTransfer_more b hp (by omega) h8,
      andThen_next, ih (s := afterPart [b] s) hp (by omega) (by omega), afterPart_cons]

/-- DEC has read the last payload byte, the others being `q` (R122, R123). -/
def afterLast (x : Variant) (q : List Byte) (b : Byte) (s : RunState) : RunState :=
  let v := BitVec.ofNat 64 (base x s.dec.lead + (s.dec.acc.toNat * 256 ^ (q.length + 1) + beval (q ++ [b])))
  { s with
    source := s.source.drop (q.length + 1)
    srcPos := s.srcPos + (q.length + 1)
    dec := { s.dec with
      phase := .idle, done := true, status := some .ok, value := some v
      acc := BitVec.ofNat 64 (s.dec.acc.toNat * 256 ^ q.length + beval q)
      rem := 1#4 }
    results := s.results ++ [.dec .ok (some v)] }

/-- The last payload byte (R122). -/
theorem decTransfer_last (b : Byte) {s : RunState} (hp : s.dec.phase = .payload) (hm : s.dec.rem = 1#4) :
    decTransfer x (.byte b) s = .next (afterLast x [] b s) := by
  simp only [decTransfer, hp, payloadByte, srcRead_dec, hm, if_true]
  rw [if_neg (by decide)]
  simp [afterLast, decCompleteOk, shiftIn_eq, beval, srcRead, hm, ← BitVec.ofNat_add]

/-- A run over all the payload bytes completes, and what follows is not read (R43, R122). -/
theorem decRun_payload_all (q : List Byte) (b : Byte) (rest : List SrcAnswer) {s : RunState}
    (hp : s.dec.phase = .payload) (hm : s.dec.rem.toNat = q.length + 1) (h8 : s.dec.rem.toNat ≤ 8) :
    decRun x ((q ++ [b]).map .byte ++ rest) s = .next (afterLast x q b s) := by
  rw [List.map_append, List.append_assoc, decRun_payload_part q _ hp (by omega) h8]
  have hr : (afterPart q s).dec.rem = 1#4 := by
    simp only [afterPart]
    apply BitVec.eq_of_toNat_eq
    have : q.length < 8 := by omega
    bv_omega
  rw [List.map_cons, List.map_nil, List.singleton_append, decRun_cons _ _ (by simp [afterPart, hp]),
    decTransfer_last b (by exact hp) hr, andThen_next, decRun_idle _ rfl]
  have hv : BitVec.ofNat 64 (base x s.dec.lead +
        ((BitVec.ofNat 64 (s.dec.acc.toNat * 256 ^ q.length + beval q)).toNat * 256 ^ (([] : List Byte).length + 1) +
          beval ([] ++ [b]))) =
      BitVec.ofNat 64 (base x s.dec.lead + (s.dec.acc.toNat * 256 ^ (q.length + 1) + beval (q ++ [b]))) := by
    rw [BitVec.ofNat_add, ofNat_reduced, ← BitVec.ofNat_add]
    congr 2
    simp only [beval_append, beval, List.nil_append, List.length_cons, List.length_nil, pow_succ]
    ring
  have ha : BitVec.ofNat 64 ((BitVec.ofNat 64 (s.dec.acc.toNat * 256 ^ q.length + beval q)).toNat *
      256 ^ ([] : List Byte).length + beval []) = BitVec.ofNat 64 (s.dec.acc.toNat * 256 ^ q.length + beval q) := by
    rw [ofNat_reduced]; simp [beval]
  simp only [List.length_nil, Nat.zero_add] at hv ha
  simp only [afterLast, afterPart, List.length_nil, Nat.zero_add, hv, ha, List.drop_drop, Nat.add_assoc]

/-- A leading byte of a multi-byte class (R112). -/
theorem decTransfer_lead_multi {L : Byte} {s : RunState} {k : MultiKind} {n acc0 : Nat} (hp : s.dec.phase = .lead)
    (hc : classify x L = .multi k n acc0) :
    decTransfer x (.byte L) s = .next { s with
      source := s.source.tail
      srcPos := s.srcPos + 1
      dec := { s.dec with
        phase := .payload, lead := L, acc := BitVec.ofNat 64 acc0, rem := BitVec.ofNat 4 n } } := by
  simp only [decTransfer, hp, leadByte, hc]
  rfl

/-- A run over a leading byte of a multi-byte class and its whole payload (R112, R122, R123). -/
theorem decRun_multi {L : Byte} (q : List Byte) (b : Byte) (rest : List SrcAnswer) {s : RunState} {k : MultiKind}
    {n acc0 : Nat} (hp : s.dec.phase = .lead) (hc : classify x L = .multi k n acc0)
    (hn : n = q.length + 1) (h8 : n ≤ 8) (ha : acc0 < 2 ^ 64) :
    decRun x ((L :: (q ++ [b])).map .byte ++ rest) s =
      .next (afterMulti L (q ++ [b]) acc0 (base x L + (acc0 * 256 ^ (q ++ [b]).length + beval (q ++ [b]))) s) := by
  have h4 : (BitVec.ofNat 4 n).toNat = n := by simp; omega
  rw [List.map_cons, List.cons_append, decRun_cons _ _ (by simp [hp]), decTransfer_lead_multi hp hc, andThen_next,
    decRun_payload_all q b rest rfl (by rw [h4, hn]) (by rw [h4]; exact h8)]
  simp only [afterLast, afterMulti, BitVec.toNat_ofNat, Nat.mod_eq_of_lt ha, List.length_append, List.length_cons,
    List.length_nil, Nat.zero_add, Nat.add_sub_cancel, List.dropLast_concat, ← List.drop_one, List.drop_drop]
  simp [Nat.add_comm, Nat.add_left_comm]
  omega

/-- A leading byte of the direct class (R112, R115, R118). -/
theorem decRun_direct {L : Byte} (rest : List SrcAnswer) {s : RunState} (hp : s.dec.phase = .lead)
    (hc : classify x L = .direct) : decRun x (.byte L :: rest) s = .next (afterDirect L s) := by
  rw [decRun_cons _ _ (by simp [hp])]
  simp only [decTransfer, hp, leadByte, hc, andThen_next]
  rw [decRun_idle _ rfl]
  simp [afterDirect, decCompleteOk, srcRead]

/-- The sentinel (R112, R117). -/
theorem decRun_sentinel {L : Byte} (rest : List SrcAnswer) {s : RunState} (hp : s.dec.phase = .lead)
    (hc : classify x L = .sentinel) : decRun x (.byte L :: rest) s = .next (afterError .outOfRange 1 s) := by
  rw [decRun_cons _ _ (by simp [hp])]
  simp only [decTransfer, hp, leadByte, hc, andThen_next]
  rw [decRun_idle _ rfl]
  simp [afterError, decCompleteError, srcRead]

/-! ### Instances and runs of the whole machine -/

/-- Every form delivers its bytes to DEC (R43, R47). -/
theorem exec_form {i : Instr} (h : i.isForm = true) (s : State) : exec i s = perform (deliver · i.bytes) s := by
  cases i <;> first | rfl | cases h

theorem exec_encode (v : Word) (s : State) : exec (.encode v) s = perform (encCommand · v) s := rfl

theorem exec_decode (s : State) : exec .decode s = perform decCommand s := rfl

@[simp] theorem update_run (s : State) (f : RunState → RunState) : (s.update f).run = f s.run := rfl
@[simp] theorem update_variant (s : State) (f : RunState → RunState) : (s.update f).variant = s.variant := rfl

/-- An operation that answers the run state `f` gives performs that update. -/
theorem perform_update {op : Variant → RunState → Host.Outcome RunState Fault Refusal} {s : State}
    {f : RunState → RunState} (h : op s.variant s.run = .next (f s.run)) : perform op s = .next (s.update f) :=
  perform_of_next h

@[simp] theorem runSteps_zero (s : State) : runSteps 0 s = .next s := rfl

/-- A run whose first step answers goes on from there. -/
theorem runSteps_succ {n : Nat} {s u : State} (h : step s = .next u) : runSteps (n + 1) s = runSteps n u := by
  simp [runSteps, h]

end Sys2Proof.Machine
end

