-- ==== Sys2Proof/Tests/Slice0.lean ====
section
/-! SUPPORT. Tests and witnesses. The expected values are those of spec/95_test_vectors.md or read off the rule named; each
test is one step or one word. A witness shows a concrete state and operands that meet all hypotheses of the statement it
is named after together, at boundary values where the statement has clauses over a range. -/

namespace Sys2Proof.Tests

open Sys2Proof Sys2Proof.Machine

/-! ## Ill-formed instructions are refused (R51, R54, R57, R72) -/

theorem test_wf_variant_a_form_in_b : [Instr.aDirect0 0x00#8, .aDirect1 0x80#8, .aDirect2 0xc0#8, .aDirect3 0xe0#8,
    .aDirect4 0xf0#8, .aDirect5 0xf4#8, .aDirect6 0xf6#8, .aGen1 0#8, .aGen2 0#8 0#8, .aGen3 0#8 0#8 0#8,
    .aGen4 0#8 0#8 0#8 0#8, .aGen5 0#8 0#8 0#8 0#8 0#8, .aGen6 0#8 0#8 0#8 0#8 0#8 0#8,
    .aGen7 0#8 0#8 0#8 0#8 0#8 0#8 0#8, .aGen8 0#8 0#8 0#8 0#8 0#8 0#8 0#8 0#8, .aSentinel].all
    (fun i => WellFormed .a i && !WellFormed .b i) = true := by decide

theorem test_wf_variant_b_form_in_a : [Instr.bDirect0 0x00#8, .bDirect1 0x80#8, .bDirect2 0xc0#8, .bDirect3 0xe0#8,
    .bDirect4 0xf0#8, .bT2k0 0#8, .bT2k1 0#8, .bT2k2 0#8, .bT2k3 0#8, .bT2k4 0#8, .bT2k5 0#8, .bT2k6 0#8, .bT3 0#8 0#8,
    .bGen3 0#8 0#8 0#8, .bGen4 0#8 0#8 0#8 0#8, .bGen5 0#8 0#8 0#8 0#8 0#8, .bGen6 0#8 0#8 0#8 0#8 0#8 0#8,
    .bGen7 0#8 0#8 0#8 0#8 0#8 0#8 0#8, .bGen8 0#8 0#8 0#8 0#8 0#8 0#8 0#8 0#8, .bSentinel].all
    (fun i => WellFormed .b i && !WellFormed .a i) = true := by decide

theorem test_wf_direct_byte_of_another_row_a : [Instr.aDirect0 0x80#8, .aDirect1 0xc0#8, .aDirect1 0x7f#8,
    .aDirect2 0xe0#8, .aDirect2 0xbf#8, .aDirect3 0xf0#8, .aDirect3 0xdf#8, .aDirect4 0xf4#8, .aDirect4 0xef#8,
    .aDirect5 0xf6#8, .aDirect5 0xf3#8, .aDirect6 0xf7#8, .aDirect6 0xf5#8].all
    (fun i => !WellFormed .a i) = true := by decide

theorem test_wf_direct_byte_of_another_row_b : [Instr.bDirect0 0x80#8, .bDirect1 0xc0#8, .bDirect1 0x7f#8,
    .bDirect2 0xe0#8, .bDirect2 0xbf#8, .bDirect3 0xf0#8, .bDirect3 0xdf#8, .bDirect4 0xf1#8, .bDirect4 0xef#8].all
    (fun i => !WellFormed .b i) = true := by decide

theorem test_wf_commands_in_both_variants : (WellFormed .a (.encode 0#64) && WellFormed .b (.encode 0#64) &&
    WellFormed .a .decode && WellFormed .b .decode) = true := by decide

/-! ## Words written out from the spec's encodings (R53 to R60, R62, R69) and the rows they decode to -/

theorem test_word_aDirect0 : decodeForm .a ([0b00101010#8] ++ [0xaa#8]) =
    .ok (.aDirect0 0x2a#8, [0xaa#8]) := by rfl

theorem test_word_aDirect1 : decodeForm .a ([0b10011100#8] ++ [0xaa#8]) =
    .ok (.aDirect1 0x9c#8, [0xaa#8]) := by rfl

theorem test_word_aDirect2 : decodeForm .a ([0b11010101#8] ++ [0xaa#8]) =
    .ok (.aDirect2 0xd5#8, [0xaa#8]) := by rfl

theorem test_word_aDirect3 : decodeForm .a ([0b11100111#8] ++ [0xaa#8]) =
    .ok (.aDirect3 0xe7#8, [0xaa#8]) := by rfl

theorem test_word_aDirect4 : decodeForm .a ([0b11110011#8] ++ [0xaa#8]) =
    .ok (.aDirect4 0xf3#8, [0xaa#8]) := by rfl

theorem test_word_aDirect5 : decodeForm .a ([0b11110101#8] ++ [0xaa#8]) =
    .ok (.aDirect5 0xf5#8, [0xaa#8]) := by rfl

theorem test_word_aDirect6 : decodeForm .a ([0b11110110#8] ++ [0xaa#8]) =
    .ok (.aDirect6 0xf6#8, [0xaa#8]) := by rfl

theorem test_word_aGen1 : decodeForm .a ([0b11110111#8, 0x12#8] ++ [0xaa#8]) =
    .ok (.aGen1 0x12#8, [0xaa#8]) := by rfl

theorem test_word_aGen2 : decodeForm .a ([0b11111000#8, 0x12#8, 0x34#8] ++ [0xaa#8]) =
    .ok (.aGen2 0x12#8 0x34#8, [0xaa#8]) := by rfl

theorem test_word_aGen3 : decodeForm .a ([0b11111001#8, 0x12#8, 0x34#8, 0x56#8] ++ [0xaa#8]) =
    .ok (.aGen3 0x12#8 0x34#8 0x56#8, [0xaa#8]) := by rfl

theorem test_word_aGen4 : decodeForm .a ([0b11111010#8, 0x12#8, 0x34#8, 0x56#8, 0x78#8] ++ [0xaa#8]) =
    .ok (.aGen4 0x12#8 0x34#8 0x56#8 0x78#8, [0xaa#8]) := by rfl

theorem test_word_aGen5 : decodeForm .a ([0b11111011#8, 0x12#8, 0x34#8, 0x56#8, 0x78#8, 0x9a#8] ++ [0xaa#8]) =
    .ok (.aGen5 0x12#8 0x34#8 0x56#8 0x78#8 0x9a#8, [0xaa#8]) := by rfl

theorem test_word_aGen6 : decodeForm .a ([0b11111100#8, 0x12#8, 0x34#8, 0x56#8, 0x78#8, 0x9a#8, 0xbc#8] ++ [0xaa#8]) =
    .ok (.aGen6 0x12#8 0x34#8 0x56#8 0x78#8 0x9a#8 0xbc#8, [0xaa#8]) := by rfl

theorem test_word_aGen7 : decodeForm .a ([0b11111101#8, 0x12#8, 0x34#8, 0x56#8, 0x78#8, 0x9a#8, 0xbc#8, 0xde#8] ++ [0xaa#8]) =
    .ok (.aGen7 0x12#8 0x34#8 0x56#8 0x78#8 0x9a#8 0xbc#8 0xde#8, [0xaa#8]) := by rfl

theorem test_word_aGen8 : decodeForm .a ([0b11111110#8, 0x12#8, 0x34#8, 0x56#8, 0x78#8, 0x9a#8, 0xbc#8, 0xde#8, 0xf0#8] ++ [0xaa#8]) =
    .ok (.aGen8 0x12#8 0x34#8 0x56#8 0x78#8 0x9a#8 0xbc#8 0xde#8 0xf0#8, [0xaa#8]) := by rfl

theorem test_word_aSentinel : decodeForm .a ([0b11111111#8] ++ [0xaa#8]) =
    .ok (.aSentinel, [0xaa#8]) := by rfl

theorem test_word_bDirect0 : decodeForm .b ([0b00101010#8] ++ [0xaa#8]) =
    .ok (.bDirect0 0x2a#8, [0xaa#8]) := by rfl

theorem test_word_bDirect1 : decodeForm .b ([0b10011100#8] ++ [0xaa#8]) =
    .ok (.bDirect1 0x9c#8, [0xaa#8]) := by rfl

theorem test_word_bDirect2 : decodeForm .b ([0b11010101#8] ++ [0xaa#8]) =
    .ok (.bDirect2 0xd5#8, [0xaa#8]) := by rfl

theorem test_word_bDirect3 : decodeForm .b ([0b11100111#8] ++ [0xaa#8]) =
    .ok (.bDirect3 0xe7#8, [0xaa#8]) := by rfl

theorem test_word_bDirect4 : decodeForm .b ([0b11110000#8] ++ [0xaa#8]) =
    .ok (.bDirect4 0xf0#8, [0xaa#8]) := by rfl

theorem test_word_bT2k0 : decodeForm .b ([0b11110001#8, 0x12#8] ++ [0xaa#8]) =
    .ok (.bT2k0 0x12#8, [0xaa#8]) := by rfl

theorem test_word_bT2k1 : decodeForm .b ([0b11110010#8, 0x12#8] ++ [0xaa#8]) =
    .ok (.bT2k1 0x12#8, [0xaa#8]) := by rfl

theorem test_word_bT2k2 : decodeForm .b ([0b11110011#8, 0x12#8] ++ [0xaa#8]) =
    .ok (.bT2k2 0x12#8, [0xaa#8]) := by rfl

theorem test_word_bT2k3 : decodeForm .b ([0b11110100#8, 0x12#8] ++ [0xaa#8]) =
    .ok (.bT2k3 0x12#8, [0xaa#8]) := by rfl

theorem test_word_bT2k4 : decodeForm .b ([0b11110101#8, 0x12#8] ++ [0xaa#8]) =
    .ok (.bT2k4 0x12#8, [0xaa#8]) := by rfl

theorem test_word_bT2k5 : decodeForm .b ([0b11110110#8, 0x12#8] ++ [0xaa#8]) =
    .ok (.bT2k5 0x12#8, [0xaa#8]) := by rfl

theorem test_word_bT2k6 : decodeForm .b ([0b11110111#8, 0x12#8] ++ [0xaa#8]) =
    .ok (.bT2k6 0x12#8, [0xaa#8]) := by rfl

theorem test_word_bT3 : decodeForm .b ([0b11111000#8, 0x0a#8, 0x44#8] ++ [0xaa#8]) =
    .ok (.bT3 0x0a#8 0x44#8, [0xaa#8]) := by rfl

theorem test_word_bGen3 : decodeForm .b ([0b11111001#8, 0x12#8, 0x34#8, 0x56#8] ++ [0xaa#8]) =
    .ok (.bGen3 0x12#8 0x34#8 0x56#8, [0xaa#8]) := by rfl

theorem test_word_bGen4 : decodeForm .b ([0b11111010#8, 0x12#8, 0x34#8, 0x56#8, 0x78#8] ++ [0xaa#8]) =
    .ok (.bGen4 0x12#8 0x34#8 0x56#8 0x78#8, [0xaa#8]) := by rfl

theorem test_word_bGen5 : decodeForm .b ([0b11111011#8, 0x12#8, 0x34#8, 0x56#8, 0x78#8, 0x9a#8] ++ [0xaa#8]) =
    .ok (.bGen5 0x12#8 0x34#8 0x56#8 0x78#8 0x9a#8, [0xaa#8]) := by rfl

theorem test_word_bGen6 : decodeForm .b ([0b11111100#8, 0x12#8, 0x34#8, 0x56#8, 0x78#8, 0x9a#8, 0xbc#8] ++ [0xaa#8]) =
    .ok (.bGen6 0x12#8 0x34#8 0x56#8 0x78#8 0x9a#8 0xbc#8, [0xaa#8]) := by rfl

theorem test_word_bGen7 : decodeForm .b ([0b11111101#8, 0x12#8, 0x34#8, 0x56#8, 0x78#8, 0x9a#8, 0xbc#8, 0xde#8] ++ [0xaa#8]) =
    .ok (.bGen7 0x12#8 0x34#8 0x56#8 0x78#8 0x9a#8 0xbc#8 0xde#8, [0xaa#8]) := by rfl

theorem test_word_bGen8 : decodeForm .b ([0b11111110#8, 0x12#8, 0x34#8, 0x56#8, 0x78#8, 0x9a#8, 0xbc#8, 0xde#8, 0xf0#8] ++ [0xaa#8]) =
    .ok (.bGen8 0x12#8 0x34#8 0x56#8 0x78#8 0x9a#8 0xbc#8 0xde#8 0xf0#8, [0xaa#8]) := by rfl

theorem test_word_bSentinel : decodeForm .b ([0b11111111#8] ++ [0xaa#8]) =
    .ok (.bSentinel, [0xaa#8]) := by rfl

theorem test_word_encode : decodeCommand 0b0#1 (some 0x1234#64) = .ok (.encode 0x1234#64) := by rfl

theorem test_word_decode : decodeCommand 0b1#1 none = .ok .decode := by rfl

/-- A command without its operand, or with one it does not take, is no command (R69). -/
theorem test_word_commands_refused :
    decodeCommand 0b0#1 none = .error .missingOperand ∧ decodeCommand 0b1#1 (some 0#64) = .error .unexpectedOperand :=
  ⟨rfl, rfl⟩

/-- Fewer bytes than the leading byte asks for are refused (R52). -/
theorem test_word_truncated : decodeForm .a [0xfe#8, 1#8, 2#8, 3#8, 4#8, 5#8, 6#8, 7#8] = .error .truncated ∧
    decodeForm .b [0xf1#8] = .error .truncated ∧ decodeForm .a [] = .error .empty := ⟨rfl, rfl, rfl⟩

/-- A table word: its first byte is in bits 7 to 0, the bytes above it are 0 (spec/opcode_table.json). -/
theorem test_table_word : decodeTableWord 8 0x2a = some (.aDirect0 0x2a#8) ∧
    decodeTableWord 24 0x3412f8 = some (.aGen2 0x12#8 0x34#8) ∧ decodeTableWord 8 0xff = some .aSentinel ∧
    decodeWordOf .b 8 0xf1 = some (.bT2k0 0x00#8) := by decide

/-! ## One step on a small state (95_test_vectors.md sections 2, 3 and 4) -/

/-- A core of variant `x` whose DEC waits for a leading byte, with `bs` next on the source. -/
def waiting (x : Variant) (bs : List Byte) : State :=
  { (State.resetOf x).update decStart with source := bs.map .byte }

/-- The value, the status, the bytes consumed and how many answers are left after one step. -/
def stepped (x : Variant) (bs : List Byte) : Option (Option Word × Option Status × Nat × Nat) :=
  match step (waiting x bs) with
  | .next t => some (t.dec.value, t.dec.status, t.srcPos, t.source.length)
  | .fault _ => none
  | .refused _ => none

theorem test_step_aDirect0 : stepped .a [0x7f#8, 0xaa#8, 0xbb#8] =
    some (some 0x7f#64, some .ok, 1, 2) := by rfl

theorem test_step_aDirect1 : stepped .a [0x80#8, 0xaa#8, 0xbb#8] =
    some (some 0x80#64, some .ok, 1, 2) := by rfl

theorem test_step_aDirect2 : stepped .a [0xdf#8, 0xaa#8, 0xbb#8] =
    some (some 0xdf#64, some .ok, 1, 2) := by rfl

theorem test_step_aDirect3 : stepped .a [0xef#8, 0xaa#8, 0xbb#8] =
    some (some 0xef#64, some .ok, 1, 2) := by rfl

theorem test_step_aDirect4 : stepped .a [0xf1#8, 0xaa#8, 0xbb#8] =
    some (some 0xf1#64, some .ok, 1, 2) := by rfl

theorem test_step_aDirect5 : stepped .a [0xf5#8, 0xaa#8, 0xbb#8] =
    some (some 0xf5#64, some .ok, 1, 2) := by rfl

theorem test_step_aDirect6 : stepped .a [0xf6#8, 0xaa#8, 0xbb#8] =
    some (some 0xf6#64, some .ok, 1, 2) := by rfl

theorem test_step_aGen1 : stepped .a [0xf7#8, 0xf7#8, 0xaa#8, 0xbb#8] =
    some (some 0xf7#64, some .ok, 2, 2) := by rfl

theorem test_step_aGen2 : stepped .a [0xf8#8, 0x12#8, 0x34#8, 0xaa#8, 0xbb#8] =
    some (some 0x1234#64, some .ok, 3, 2) := by rfl

theorem test_step_aGen3 : stepped .a [0xf9#8, 0x12#8, 0x34#8, 0x56#8, 0xaa#8, 0xbb#8] =
    some (some 0x123456#64, some .ok, 4, 2) := by rfl

theorem test_step_aGen4 : stepped .a [0xfa#8, 0x12#8, 0x34#8, 0x56#8, 0x78#8, 0xaa#8, 0xbb#8] =
    some (some 0x12345678#64, some .ok, 5, 2) := by rfl

theorem test_step_aGen5 : stepped .a [0xfb#8, 0x12#8, 0x34#8, 0x56#8, 0x78#8, 0x9a#8, 0xaa#8, 0xbb#8] =
    some (some 0x123456789a#64, some .ok, 6, 2) := by rfl

theorem test_step_aGen6 : stepped .a [0xfc#8, 0x12#8, 0x34#8, 0x56#8, 0x78#8, 0x9a#8, 0xbc#8, 0xaa#8, 0xbb#8] =
    some (some 0x123456789abc#64, some .ok, 7, 2) := by rfl

theorem test_step_aGen7 : stepped .a [0xfd#8, 0x12#8, 0x34#8, 0x56#8, 0x78#8, 0x9a#8, 0xbc#8, 0xde#8, 0xaa#8, 0xbb#8] =
    some (some 0x123456789abcde#64, some .ok, 8, 2) := by rfl

theorem test_step_aGen8 : stepped .a [0xfe#8, 0xff#8, 0xff#8, 0xff#8, 0xff#8, 0xff#8, 0xff#8, 0xff#8, 0xff#8, 0xaa#8, 0xbb#8] =
    some (some 0xffffffffffffffff#64, some .ok, 9, 2) := by rfl

theorem test_step_bDirect0 : stepped .b [0x7f#8, 0xaa#8, 0xbb#8] =
    some (some 0x7f#64, some .ok, 1, 2) := by rfl

theorem test_step_bDirect1 : stepped .b [0x80#8, 0xaa#8, 0xbb#8] =
    some (some 0x80#64, some .ok, 1, 2) := by rfl

theorem test_step_bDirect2 : stepped .b [0xdf#8, 0xaa#8, 0xbb#8] =
    some (some 0xdf#64, some .ok, 1, 2) := by rfl

theorem test_step_bDirect3 : stepped .b [0xef#8, 0xaa#8, 0xbb#8] =
    some (some 0xef#64, some .ok, 1, 2) := by rfl

theorem test_step_bDirect4 : stepped .b [0xf0#8, 0xaa#8, 0xbb#8] =
    some (some 0xf0#64, some .ok, 1, 2) := by rfl

theorem test_step_bT2k0 : stepped .b [0xf1#8, 0xff#8, 0xaa#8, 0xbb#8] =
    some (some 0x1ef#64, some .ok, 2, 2) := by rfl

theorem test_step_bT2k1 : stepped .b [0xf2#8, 0xff#8, 0xaa#8, 0xbb#8] =
    some (some 0x2ef#64, some .ok, 2, 2) := by rfl

theorem test_step_bT2k2 : stepped .b [0xf3#8, 0xff#8, 0xaa#8, 0xbb#8] =
    some (some 0x3ef#64, some .ok, 2, 2) := by rfl

theorem test_step_bT2k3 : stepped .b [0xf4#8, 0xff#8, 0xaa#8, 0xbb#8] =
    some (some 0x4ef#64, some .ok, 2, 2) := by rfl

theorem test_step_bT2k4 : stepped .b [0xf5#8, 0xff#8, 0xaa#8, 0xbb#8] =
    some (some 0x5ef#64, some .ok, 2, 2) := by rfl

theorem test_step_bT2k5 : stepped .b [0xf6#8, 0xff#8, 0xaa#8, 0xbb#8] =
    some (some 0x6ef#64, some .ok, 2, 2) := by rfl

theorem test_step_bT2k6 : stepped .b [0xf7#8, 0xff#8, 0xaa#8, 0xbb#8] =
    some (some 0x7ef#64, some .ok, 2, 2) := by rfl

theorem test_step_bT3 : stepped .b [0xf8#8, 0xff#8, 0xff#8, 0xaa#8, 0xbb#8] =
    some (some 0x107ef#64, some .ok, 3, 2) := by rfl

theorem test_step_bGen3 : stepped .b [0xf9#8, 0x01#8, 0x07#8, 0xf0#8, 0xaa#8, 0xbb#8] =
    some (some 0x107f0#64, some .ok, 4, 2) := by rfl

theorem test_step_bGen4 : stepped .b [0xfa#8, 0x12#8, 0x34#8, 0x56#8, 0x78#8, 0xaa#8, 0xbb#8] =
    some (some 0x12345678#64, some .ok, 5, 2) := by rfl

theorem test_step_bGen5 : stepped .b [0xfb#8, 0x12#8, 0x34#8, 0x56#8, 0x78#8, 0x9a#8, 0xaa#8, 0xbb#8] =
    some (some 0x123456789a#64, some .ok, 6, 2) := by rfl

theorem test_step_bGen6 : stepped .b [0xfc#8, 0x12#8, 0x34#8, 0x56#8, 0x78#8, 0x9a#8, 0xbc#8, 0xaa#8, 0xbb#8] =
    some (some 0x123456789abc#64, some .ok, 7, 2) := by rfl

theorem test_step_bGen7 : stepped .b [0xfd#8, 0x12#8, 0x34#8, 0x56#8, 0x78#8, 0x9a#8, 0xbc#8, 0xde#8, 0xaa#8, 0xbb#8] =
    some (some 0x123456789abcde#64, some .ok, 8, 2) := by rfl

theorem test_step_bGen8 : stepped .b [0xfe#8, 0x12#8, 0x34#8, 0x56#8, 0x78#8, 0x9a#8, 0xbc#8, 0xde#8, 0xf0#8, 0xaa#8, 0xbb#8] =
    some (some 0x123456789abcdef0#64, some .ok, 9, 2) := by rfl

theorem test_step_aSentinel : stepped .a [0xff#8, 0xaa#8, 0xbb#8] =
    some (none, some .outOfRange, 1, 2) := by rfl

theorem test_step_bSentinel : stepped .b [0xff#8, 0xaa#8, 0xbb#8] =
    some (none, some .outOfRange, 1, 2) := by rfl

/-- A non-canonical encoding is accepted (section 3.2; R64). -/
theorem test_step_non_canonical : stepped .b [0xf9#8, 0x00#8, 0x07#8, 0xf0#8] = some (some 0x7f0#64, some .ok, 4, 0) := by rfl

/-- ENCODE of `v` offered to an idle ENC whose sink gives `answers`: what the sink receives and the status (section 4). -/
def encoded (x : Variant) (v : Word) (answers : List SinkAnswer) : Option (List Byte × Bool × Option Status × EncPhase) :=
  match step { State.resetOf x with events := [.encStart v], sinkAnswers := answers } with
  | .next t => some (t.sink, t.enc.done, t.enc.status, t.enc.phase)
  | .fault _ => none
  | .refused _ => none

theorem test_step_encode_b : encoded .b 0x1234#64 [.ok, .ok, .ok] =
    some ([0xf8#8, 0x0a#8, 0x44#8], true, some .ok, .idle) := by decide

theorem test_step_encode_sink_failure : encoded .a 0x1234#64 [.ok, .err] =
    some ([0xf8#8], true, some .ioError, .idle) := by decide

/-- DECODE offered to an idle DEC whose source gives `answers` (sections 3.3, 3.5). -/
def decoded (x : Variant) (answers : List SrcAnswer) : Option (Option Word × Bool × Option Status × Nat × DecPhase) :=
  match step { State.resetOf x with events := [.decStart], source := answers } with
  | .next t => some (t.dec.value, t.dec.done, t.dec.status, t.srcPos, t.dec.phase)
  | .fault _ => none
  | .refused _ => none

theorem test_step_decode_truncated : decoded .b [.byte 0xf9#8, .byte 0x01#8, .endOfStream] =
    some (none, true, some .truncated, 2, .idle) := by decide

theorem test_step_decode_transport_failure : decoded .a [.byte 0xf8#8, .byte 0x01#8, .err] =
    some (none, true, some .ioError, 2, .idle) := by decide

/-- A read before completion is the platform's fault (R19, U4). -/
theorem test_step_early_read :
    step { State.reset with events := [.read .decValue] } = .fault (.unspecifiedRead .decValue) := by rfl

/-- The first step after a placed word runs its instruction. -/
theorem test_with_fetch_word : step (State.reset.withFetchWord 16 0xfff7) =
    exec (.aGen1 0xff#8) (State.reset.withFetchWord 16 0xfff7) := by rfl

/-! ## Witnesses: the hypotheses of each statement are met together -/

/-- DEC of variant `x` in PAYLOAD after leading byte `L`, with `rem` bytes missing and `answers` ready. -/
def inPayload (x : Variant) (L : Byte) (rem : BitVec 4) (acc : Word) (answers : List SrcAnswer) : State :=
  { State.resetOf x with
    source := answers
    dec := { (State.resetOf x).dec with phase := .payload, lead := L, acc := acc, rem := rem } }

/-- ENC of variant `x` in EMIT at index `idx` of the encoding of `v`. -/
def inEmit (x : Variant) (v : Word) (idx : BitVec 4) (answers : List SinkAnswer) : State :=
  { State.resetOf x with
    sinkAnswers := answers
    enc := { (State.resetOf x).enc with phase := .emit, value := v, idx := idx } }

/-- An idle core of variant `x` with these answers ready. -/
def idle (x : Variant) (sinkAnswers : List SinkAnswer) (source : List SrcAnswer) : State :=
  { State.resetOf x with sinkAnswers := sinkAnswers, source := source }

/-- ENC in EMIT with a second ENCODE held and an answer of the sink to come; DEC in PAYLOAD with a DECODE held. -/
def heldEncode : State := { inEmit .a 5#64 0#4 [] with events := [.encStart 6#64, .sinkReady [.ok]] }

def heldDecode : State := { inPayload .a 0xf8#8 1#4 1#64 [] with events := [.decStart] }

theorem witness_DecodeOfEncodeIsIdentity :
    (WellFormed .a (.aDirect0 0x7f#8) = true ∧ (Instr.aDirect0 0x7f#8).isForm = true) ∧
    (WellFormed .b (.bGen8 0#8 0#8 0#8 0#8 0#8 0#8 0#8 0xff#8) = true ∧
      (Instr.bGen8 0#8 0#8 0#8 0#8 0#8 0#8 0#8 0xff#8).isForm = true) ∧ WellFormed .b .decode = true := by decide

theorem witness_LeadByteAloneTellsLength : leadLength .a 0xff#8 = none ∧ leadLength .b 0xff#8 = none ∧
    leadLength .a 0xf6#8 = some 1 ∧ leadLength .a 0xfe#8 = some 9 ∧ leadLength .b 0xf0#8 = some 1 ∧
    leadLength .b 0xf1#8 = some 2 ∧ leadLength .b 0xf8#8 = some 3 ∧ leadLength .b 0xf9#8 = some 4 := by decide

theorem witness_WidthIsMinimal : (1 ≤ 1 ∧ 1 < 2 ^ 64) ∧ (1 ≤ 2 ^ 64 - 1 ∧ 2 ^ 64 - 1 < 2 ^ 64) := by decide

theorem witness_BigEndianIsInverse : 255 < 256 ^ 1 ∧ 256 < 256 ^ 2 ∧ 0 < 1 ∧ 7 < 8 := by decide

theorem witness_RoundTripOfTheCodec : encodeValue .a 0xf7#64 = encodeValue .a 0xf7#64 ∧
    encodeValue .b 0xf1#64 = encodeValue .b 0xf1#64 := by decide

theorem witness_EncodingPreservesOrder : (0xf6#64).toNat < (0xf7#64).toNat ∧
    lexLt (encodeValue .a 0xf6#64) (encodeValue .a 0xf7#64) = true := by decide

theorem witness_EncodedLengthIsMonotone : (0xf6#64).toNat ≤ (0xf7#64).toNat ∧ (0x107ef#64).toNat ≤ (0x107f0#64).toNat := by
  decide

/-- Both cases of the conclusion occur: 0xf7, 0xf8 keep the leading byte, 0xff, 0x100 step it, in variant A. -/
theorem witness_NeighboursDifferByOne : (0xf8#64).toNat = (0xf7#64).toNat + 1 ∧ (0x100#64).toNat = (0xff#64).toNat + 1 ∧
    (0x107f0#64).toNat = (0x107ef#64).toNat + 1 := by decide

theorem witness_NoEncodingIsAnInitialPartOfAnother :
    decodeBytes .a [0xf8#8, 0x01#8, 0x00#8, 0xaa#8] = (.ok, some 0x100#64, 3) ∧ 0 < 3 ∧ 2 < 3 ∧
    encodeValue .a 0x100#64 = encodeValue .a 0x100#64 ++ [] := by decide

theorem witness_CanonicalExactlyWhenReencoded : decodeBytes .a [0xf7#8, 0x05#8] = (.ok, some 0x5#64, [0xf7#8, 0x05#8].length) ∧
    decodeBytes .b [0xf8#8, 0x00#8, 0x00#8] = (.ok, some 0x7f0#64, [0xf8#8, 0x00#8, 0x00#8].length) := by decide

theorem witness_VariantsAgreeOutsideTheDenseTiers : (0xf0#8).toNat ≤ 0xf0 ∧ 0xf9 ≤ (0xf9#8).toNat ∧
    (0xf1 ≤ (0xf1#8).toNat ∧ (0xf1#8).toNat ≤ 0xf8 ∧ (decodeBytes .a (0xf1#8 :: [])).1 = .ok) ∧
    (0xf1 ≤ (0xf8#8).toNat ∧ (0xf8#8).toNat ≤ 0xf8 ∧ (decodeBytes .a (0xf8#8 :: [0#8, 0#8])).1 = .ok) := by decide

theorem witness_StepRunsTheFormOnTheSource : (waiting .a [0xf7#8, 0xff#8, 0x01#8]).dec.phase = .lead ∧
    WellFormed (waiting .a [0xf7#8, 0xff#8, 0x01#8]).variant (.aGen1 0xff#8) = true ∧ (Instr.aGen1 0xff#8).isForm = true ∧
    (waiting .a [0xf7#8, 0xff#8, 0x01#8]).source = (Instr.aGen1 0xff#8).bytes.map .byte ++ [.byte 0x01#8] := by decide

theorem witness_StepRunsTheOfferedCommand :
    ((idle .a [] []).enc.phase = .idle ∧ (idle .a [] []).dec.phase = .idle) ∧ (decReady (idle .a [] []).run = false ∧ encReady (idle .a [] []).run = false) ∧
    ({ idle .a [] [] with events := [.encStart 5#64] } : State).events = .encStart 5#64 :: [] ∧
    ({ idle .a [] [] with events := [.decStart] } : State).events = .decStart :: [] := by decide

theorem witness_StepMakesThePackersTransfer :
    (decReady (inEmit .a 0x1234#64 2#4 [.ok]).run = false ∧ (inEmit .a 0x1234#64 2#4 [.ok]).enc.phase = .emit ∧
      packerByte .a (inEmit .a 0x1234#64 2#4 [.ok]).run = some 0x34#8 ∧
      (inEmit .a 0x1234#64 2#4 [.ok]).enc.idx.toNat + 1 = (encodeValue .a 0x1234#64).length) ∧
    (packerByte .a (inEmit .a 0x1234#64 1#4 [.ok]).run = some 0x12#8 ∧
      (inEmit .a 0x1234#64 1#4 [.ok]).enc.idx.toNat + 1 ≠ (encodeValue .a 0x1234#64).length) ∧
    (decReady (inEmit .a 0x1234#64 0#4 [.err]).run = false ∧ packerByte .a (inEmit .a 0x1234#64 0#4 [.err]).run = some 0xf8#8 ∧
      (inEmit .a 0x1234#64 0#4 [.err]).sinkAnswers = .err :: []) := by decide

theorem witness_StepReadsALeadingByteAlone : (waiting .b [0xf8#8, 0x01#8]).dec.phase = .lead ∧
    (waiting .b [0xf8#8, 0x01#8]).source = .byte 0xf8#8 :: [.byte 0x01#8] ∧
    classify (waiting .b [0xf8#8, 0x01#8]).variant 0xf8#8 = .multi .t3 2 0 ∧
    (readyBytes [.byte 0x01#8]).length < 2 := by decide

theorem witness_StepReadsAPayloadByte :
    ((inPayload .b 0xf8#8 1#4 0x0a#64 [.byte 0x44#8]).dec.phase = .payload ∧
      (inPayload .b 0xf8#8 1#4 0x0a#64 [.byte 0x44#8]).dec.rem.toNat = 1 ∧
      (inPayload .b 0xf8#8 1#4 0x0a#64 [.byte 0x44#8]).source = .byte 0x44#8 :: []) ∧
    ((inPayload .a 0xfe#8 8#4 0#64 [.byte 0x44#8]).dec.rem.toNat ≤ 8 ∧
      (inPayload .a 0xfe#8 8#4 0#64 [.byte 0x44#8]).dec.rem.toNat ≠ 1) := by decide

theorem witness_FailedSourceTransferEndsTheDecode :
    ((inPayload .a 0xf8#8 1#4 1#64 [.endOfStream]).dec.phase ≠ .idle ∧
      (inPayload .a 0xf8#8 1#4 1#64 [.endOfStream]).source = .endOfStream :: []) ∧
    ((inPayload .a 0xf8#8 1#4 1#64 [.err]).dec.phase ≠ .idle ∧
      (inPayload .a 0xf8#8 1#4 1#64 [.err]).source = .err :: []) := by decide

theorem witness_WaitingIsStuckNotFaulted :
    (decReady (inPayload .a 0xf8#8 1#4 1#64 []).run = false ∧ encReady (inPayload .a 0xf8#8 1#4 1#64 []).run = false ∧
      (inPayload .a 0xf8#8 1#4 1#64 []).events = []) ∧
    decReady heldDecode.run = false ∧ encReady heldDecode.run = false ∧
    ∀ e ∈ heldDecode.events,
      (e = .decStart ∧ heldDecode.dec.phase ≠ .idle) ∨ (heldDecode.enc.phase = .emit ∧ ∃ v, e = .encStart v) :=
  ⟨by decide, by decide, by decide, fun e h => .inl ⟨List.mem_singleton.1 h, by decide⟩⟩

theorem witness_EncodeWritesTheEncoding : (idle .b [.ok, .ok, .ok, .err] []).enc.phase = .idle ∧
    (idle .b [.ok, .ok, .ok, .err] []).sinkAnswers =
      List.replicate (encodeValue (idle .b [.ok, .ok, .ok, .err] []).variant 0x1234#64).length .ok ++ [.err] := by decide

theorem witness_EncodeStopsAtASinkFailure : (idle .a [.ok, .ok, .err] []).enc.phase = .idle ∧
    2 < (encodeValue (idle .a [.ok, .ok, .err] []).variant 0x1234#64).length ∧
    (idle .a [.ok, .ok, .err] []).sinkAnswers = List.replicate 2 .ok ++ .err :: [] := by decide

theorem witness_EncodeWaitsForTheSink : ((idle .a [] []).enc.phase = .idle ∧
      0 < (encodeValue (idle .a [] []).variant 0#64).length ∧ (idle .a [] []).sinkAnswers = List.replicate 0 .ok) ∧
    (8 < (encodeValue .a 0xffffffffffffffff#64).length ∧
      (idle .a [.ok, .ok, .ok, .ok, .ok, .ok, .ok, .ok] []).sinkAnswers = List.replicate 8 .ok) := by decide

theorem witness_BusyUnitTurnsTheCommandAway : ((inEmit .a 5#64 0#4 []).enc.phase = .emit ∧
      (inPayload .a 0xf7#8 1#4 0#64 []).dec.phase ≠ .idle ∧ (waiting .a []).dec.phase ≠ .idle) ∧
    (∃ t, step heldEncode = .next t ∧ heldEncode.enc.phase = .emit ∧ t.events = [.encStart 6#64] ∧
      t.sinkAnswers = [.ok]) ∧
    (decReady heldEncode.run = false ∧ encReady heldEncode.run = false ∧
      heldEncode.events = [.encStart 6#64] ++ .sinkReady [.ok] :: []) ∧
    ∀ e ∈ [Event.encStart 6#64],
      (e = .decStart ∧ heldEncode.dec.phase ≠ .idle) ∨ (heldEncode.enc.phase = .emit ∧ ∃ v, e = .encStart v) :=
  ⟨by decide, ⟨_, rfl, rfl, rfl, rfl⟩, by decide, fun e h => .inr ⟨rfl, _, List.mem_singleton.1 h⟩⟩

/-- The held command runs once the unit is idle: both values are on the sink after three steps (R16, U15). -/
theorem test_held_command_runs :
    (match runSteps 3 { heldEncode with events := [.encStart 6#64, .sinkReady [.ok, .ok]] } with
      | .next t => some (t.sink, t.events)
      | .fault _ => none
      | .refused _ => none) = some ([5#8, 6#8], []) := by decide

/-- A state in which ENCODE answers: the hypothesis of the frame of ENCODE and of the noninterference statement. -/
theorem witness_EncodeFrame : ∃ t : State, exec (.encode 0x2a#64) (idle .a [.ok] []) = .next t ∧ t.sink = [0x2a#8] :=
  ⟨_, rfl, rfl⟩

theorem witness_EncodeFrame_busy : ∃ t : State, exec (.encode 0x2a#64) (inEmit .a 5#64 0#4 [.ok]) = .next t ∧
    (inEmit .a 5#64 0#4 [.ok]).enc.phase = .emit := ⟨_, rfl, rfl⟩

theorem witness_EncodeIsItsTransfers : (idle .a [.ok] []).enc.phase = .idle := by decide

theorem witness_DecodeComputesThePureFunction :
    ((idle .a [] [.byte 0xf7#8, .byte 0xff#8, .endOfStream]).dec.phase = .idle ∧
      (idle .a [] [.byte 0xf7#8, .byte 0xff#8, .endOfStream]).source =
        [0xf7#8, 0xff#8].map .byte ++ .endOfStream :: []) ∧
    (idle .a [] [.endOfStream]).source = ([] : List Byte).map .byte ++ .endOfStream :: [] := by decide

theorem witness_DecodeMeetsATransportFailure :
    ((idle .a [] [.byte 0xf8#8, .byte 0x01#8, .err]).dec.phase = .idle ∧
      (idle .a [] [.byte 0xf8#8, .byte 0x01#8, .err]).source = [0xf8#8, 0x01#8].map .byte ++ .err :: []) ∧
    (decodeBytes .a [0xf8#8, 0x01#8]).1 = .truncated ∧ (decodeBytes .a [0x05#8]).1 = .ok := by decide

theorem witness_DecodeWaitsForTheSource : ((idle .b [] [.byte 0xf1#8]).dec.phase = .idle ∧
      (idle .b [] [.byte 0xf1#8]).source = [0xf1#8].map .byte ∧
      (decodeBytes (idle .b [] [.byte 0xf1#8]).variant [0xf1#8]).1 = .truncated ∧
      classify (idle .b [] [.byte 0xf1#8]).variant 0xf1#8 = .multi .t2 1 0) ∧
    ((idle .b [] []).source = ([] : List Byte).map .byte ∧ (decodeBytes .b []).1 = .truncated) := by decide

theorem witness_DecodeNeverFaults : (idle .a [] [.err]).dec.phase = .idle := by decide

theorem witness_DecodeAndFormsFrame :
    (∃ t : State, exec .decode (idle .a [] [.byte 0x05#8]) = .next t ∧ t.dec.value = some 5#64) ∧
    (∃ t : State, exec (.aGen1 0xff#8) (waiting .a [0xf7#8, 0xff#8]) = .next t ∧ t.dec.value = some 0xff#64) ∧
    (Instr.aGen1 0xff#8).isForm = true := ⟨⟨_, rfl, rfl⟩, ⟨_, rfl, rfl⟩, rfl⟩

theorem witness_DecodeExecutesTheFormNextOnTheSource : (idle .b [] [.byte 0xf7#8, .byte 0xff#8]).dec.phase = .idle ∧
    WellFormed (idle .b [] [.byte 0xf7#8, .byte 0xff#8]).variant (.bT2k6 0xff#8) = true ∧
    (Instr.bT2k6 0xff#8).isForm = true ∧
    (idle .b [] [.byte 0xf7#8, .byte 0xff#8]).source = (Instr.bT2k6 0xff#8).bytes.map .byte ++ [] := by decide

theorem witness_VariantADirectFormsDecode : ((waiting .a [0x7f#8]).variant = .a ∧ (waiting .a [0x7f#8]).dec.phase = .lead) ∧
    WellFormed .a (.aDirect0 0x7f#8) = true ∧ WellFormed .a (.aDirect1 0xbf#8) = true ∧
    WellFormed .a (.aDirect2 0xdf#8) = true ∧ WellFormed .a (.aDirect3 0xef#8) = true ∧
    WellFormed .a (.aDirect4 0xf3#8) = true ∧ WellFormed .a (.aDirect5 0xf5#8) = true ∧
    WellFormed .a (.aDirect6 0xf6#8) = true := by decide

theorem witness_VariantAGeneralFormsDecode : (waiting .a [0xf7#8, 0xff#8]).variant = .a ∧
    (waiting .a [0xf7#8, 0xff#8]).dec.phase = .lead := by decide

theorem witness_SentinelIsOutOfRange : ((waiting .a [0xff#8]).dec.phase = .lead ∧ (waiting .a [0xff#8]).variant = .a) ∧
    ((waiting .b [0xff#8]).dec.phase = .lead ∧ (waiting .b [0xff#8]).variant = .b) := by decide

theorem witness_VariantBDirectFormsDecode : ((waiting .b [0xf0#8]).variant = .b ∧ (waiting .b [0xf0#8]).dec.phase = .lead) ∧
    WellFormed .b (.bDirect0 0x7f#8) = true ∧ WellFormed .b (.bDirect1 0xbf#8) = true ∧
    WellFormed .b (.bDirect2 0xdf#8) = true ∧ WellFormed .b (.bDirect3 0xef#8) = true ∧
    WellFormed .b (.bDirect4 0xf0#8) = true := by decide

theorem witness_VariantBDenseTiersDecode : (waiting .b [0xf7#8, 0xff#8]).variant = .b ∧
    (waiting .b [0xf7#8, 0xff#8]).dec.phase = .lead := by decide

theorem witness_VariantBGeneralFormsDecode : (waiting .b [0xf9#8, 1#8, 7#8, 0xf0#8]).variant = .b ∧
    (waiting .b [0xf9#8, 1#8, 7#8, 0xf0#8]).dec.phase = .lead := by decide

theorem witness_FormIsItsTransfers : (Instr.aGen1 0xff#8).isForm = true ∧ (idle .a [] []).dec.phase = .idle ∧
    (waiting .a [0xf7#8, 0xff#8]).source = (Instr.aGen1 0xff#8).bytes.map .byte ++ [] := by decide

/-- A state of the invariant with both units in flight: the last byte of T2 with `k = 6` is missing, ENC is at its last
byte. -/
def busy : State :=
  { inPayload .b 0xf7#8 1#4 6#64 [.byte 0xff#8] with
    enc := { phase := .emit, value := 0x1234#64, idx := 2#4, done := false, status := none } }

theorem busy_payload : PayloadBounds busy.variant busy.dec := by
  have h : classify busy.variant busy.dec.lead = .multi .t2 1 6 := by decide
  have h1 : busy.dec.rem.toNat = 1 := by decide
  have h2 : busy.dec.acc.toNat = 6 := by decide
  simp [PayloadBounds, h, h1, h2]

theorem busy_inv : CoreInv busy :=
  ⟨⟨fun _ => ⟨rfl, by decide⟩, by decide, fun _ h => by cases h⟩, fun _ => rfl, fun _ => busy_payload, by decide, by decide⟩

theorem witness_EveryStepKeepsTheInvariant : CoreInv busy ∧ ∃ t, step busy = .next t ∧ t.dec.value = some 0x7ef#64 :=
  ⟨busy_inv, _, rfl, rfl⟩

theorem witness_NoArithmeticWraps : CoreInv busy ∧ busy.dec.phase = .payload := ⟨busy_inv, rfl⟩

theorem witness_VariantIsConstant : ∃ t, step busy = .next t ∧ t.variant = .b := ⟨_, rfl, rfl⟩

theorem witness_StreamsAreNeverRolledBack : ∃ t, step busy = .next t ∧ t.srcPos = 1 := ⟨_, rfl, rfl⟩

theorem witness_RunsWithoutReadsNeverFault : CoreInv busy ∧ NoReads busy.events :=
  ⟨busy_inv, fun _ h => absurd h List.not_mem_nil⟩

theorem witness_UnitsShareNothing :
    (∃ t, step busy = .next t ∧ decReady busy.run = true) ∧
    (∃ t, step { idle .a [] [] with events := [.decStart] } = .next t ∧
      encReady ({ idle .a [] [] with events := [.decStart] } : State).run = false) ∧
    (∃ t, step (inEmit .a 5#64 0#4 [.ok]) = .next t ∧ decReady (inEmit .a 5#64 0#4 [.ok]).run = false ∧
      encReady (inEmit .a 5#64 0#4 [.ok]).run = true) ∧
    (∃ t, step { idle .a [] [] with events := [.encStart 5#64] } = .next t ∧
      decReady ({ idle .a [] [] with events := [.encStart 5#64] } : State).run = false) :=
  ⟨⟨_, rfl, rfl⟩, ⟨_, rfl, rfl⟩, ⟨_, rfl, rfl, rfl⟩, ⟨_, rfl, rfl⟩⟩

theorem witness_ResetAbandonsWhatIsInFlight :
    decReady ({ busy with source := [], events := [.reset (some 0x11#8)] } : State).run = false ∧
    encReady ({ busy with source := [], events := [.reset (some 0x11#8)] } : State).run = false ∧
    decReady ({ busy with source := [], events := [.reset none] } : State).run = false ∧
    encReady ({ busy with source := [], events := [.reset none] } : State).run = false := by decide

/-- Both units have completed: DEC with OK and a value, ENC with IO_ERROR. -/
def completed : State :=
  { State.resetOf .a with
    enc := { (State.resetOf .a).enc with done := true, status := some .ioError }
    dec := { (State.resetOf .a).dec with done := true, status := some .ok, value := some 5#64 } }

theorem completed_inv : CoreInv completed :=
  ⟨⟨fun h => (by cases h), by decide, fun _ h => .inr (by cases h; rfl)⟩, fun h => absurd rfl h,
    fun h => (by cases h), by decide, by decide⟩

theorem reset_inv : CoreInv (State.resetOf .a) :=
  ⟨⟨fun h => (by cases h), by decide, fun _ h => by cases h⟩, fun _ => rfl, fun h => (by cases h), by decide, by decide⟩

theorem witness_ResultFieldsReadOnlyAfterCompletion :
    (CoreInv { completed with events := [.read .decValue] } ∧
      decReady ({ completed with events := [.read .decValue] } : State).run = false ∧
      encReady ({ completed with events := [.read .decValue] } : State).run = false ∧
      completed.dec.done = true ∧ completed.dec.status = some .ok) ∧
    (CoreInv { State.resetOf .a with events := [.read .decValue] } ∧
      decReady ({ State.resetOf .a with events := [.read .decValue] } : State).run = false ∧
      encReady ({ State.resetOf .a with events := [.read .decValue] } : State).run = false ∧
      (State.resetOf .a).dec.done = false) :=
  ⟨⟨completed_inv, rfl, rfl, rfl, rfl⟩, ⟨reset_inv, rfl, rfl, rfl⟩⟩

theorem witness_OperationsCompleteInNineTransfers :
    CoreInv { busy with source := List.replicate 9 .endOfStream, sinkAnswers := List.replicate 9 .ok } ∧
    busy.dec.phase ≠ .idle ∧ busy.enc.phase = .emit ∧ 9 ≤ (List.replicate 9 SrcAnswer.endOfStream).length ∧
    9 ≤ (List.replicate 9 SinkAnswer.ok).length :=
  ⟨busy_inv, by decide, rfl, by decide, by decide⟩

theorem witness_EncodeDependsOnNoEarlierState :
    (idle .a [.ok] []).variant = ({ completed with sinkAnswers := [.ok] } : State).variant ∧
    (idle .a [.ok] []).sinkAnswers = ({ completed with sinkAnswers := [.ok] } : State).sinkAnswers ∧
    (idle .a [.ok] []).enc.phase = .idle ∧ ({ completed with sinkAnswers := [.ok] } : State).enc.phase = .idle ∧
    ∃ t, exec (.encode 0x2a#64) (idle .a [.ok] []) = .next t ∧ t.sink = [0x2a#8] := ⟨rfl, rfl, rfl, rfl, _, rfl, rfl⟩

theorem witness_DecodeDependsOnNoEarlierState :
    (idle .a [] [.byte 0x05#8]).variant = ({ completed with source := [.byte 0x05#8] } : State).variant ∧
    (idle .a [] [.byte 0x05#8]).source = ({ completed with source := [.byte 0x05#8] } : State).source ∧
    (idle .a [] [.byte 0x05#8]).dec.phase = .idle ∧
    ({ completed with source := [.byte 0x05#8] } : State).dec.phase = .idle ∧
    ∃ t, exec .decode (idle .a [] [.byte 0x05#8]) = .next t ∧ t.dec.value = some 5#64 := ⟨rfl, rfl, rfl, rfl, _, rfl, rfl⟩

/-- Two encoded values on the source, then `End`, and `n` DECODE commands to come. -/
def twoValues (n : Nat) : State :=
  { idle .b [] [.byte 0xf1#8, .byte 0x01#8, .byte 0x2a#8, .endOfStream] with events := List.replicate n .decStart }

theorem witness_ConcatenatedValuesDecodeInOrder : ((twoValues 2).dec.phase = .idle ∧ (twoValues 2).enc.phase = .idle ∧
      (twoValues 2).source = ([0xf1#64, 0x2a#64].flatMap fun v => encodeValue (twoValues 2).variant v).map .byte ++
        [.endOfStream] ∧ (twoValues 2).events = [0xf1#64, 0x2a#64].map (fun _ => .decStart)) ∧
    (twoValues 3).source = ([0xf1#64, 0x2a#64].flatMap fun v => encodeValue (twoValues 3).variant v).map .byte ++
      .endOfStream :: [] ∧ (twoValues 3).events = [0xf1#64, 0x2a#64].map (fun _ => .decStart) ++ [.decStart] := by decide

/-- Two ENCODE commands to come, and a sink that answers `Ok` to their three transfers. -/
def twoCommands : State :=
  { idle .b [.ok, .ok, .ok] [] with events := [.encStart 0xf1#64, .encStart 0x2a#64] }

theorem witness_EncodedValuesAreConcatenated : twoCommands.dec.phase = .idle ∧ twoCommands.enc.phase = .idle ∧
    twoCommands.events = [0xf1#64, 0x2a#64].map .encStart ∧ twoCommands.sinkAnswers =
      List.replicate ([0xf1#64, 0x2a#64].flatMap fun v => encodeValue twoCommands.variant v).length .ok ++ [] := by decide

end Sys2Proof.Tests
end

/-! The byte order and the width selector (00_scope.md R7): the facts about `be`, `beval` and `bewidth` that the laws of the
codec use, then the statements O6 and O5. -/

namespace Sys2Proof.Machine

open Sys2Proof

/-! ### Byte order -/

theorem beval_lt (s : List Byte) : beval s < 256 ^ s.length := by
  induction s with
  | nil => simp [beval]
  | cons b s ih =>
    have hb : b.toNat + 1 ≤ 256 := b.isLt
    calc b.toNat * 256 ^ s.length + beval s
      _ < (b.toNat + 1) * 256 ^ s.length := by rw [Nat.succ_mul]; omega
      _ ≤ 256 * 256 ^ s.length := Nat.mul_le_mul_right _ hb
      _ = 256 ^ (b :: s).length := (pow_succ' 256 s.length).symm

/-- `be` keeps the `w` low-order bytes, and they read back as the value modulo `256 ^ w`. -/
theorem beval_be (v w : Nat) : beval (be v w) = v % 256 ^ w := by
  induction w with
  | zero => simp [be, beval, Nat.mod_one]
  | succ w ih =>
    simp only [be, beval, be_length, ih, BitVec.toNat_ofNat]
    rw [pow_succ 256 w, Nat.mod_mul, Nat.mul_comm, Nat.add_comm]

theorem beval_be_of_lt {v w : Nat} (h : v < 256 ^ w) : beval (be v w) = v := by
  rw [beval_be, Nat.mod_eq_of_lt h]

/-- `be v w` depends on `v` modulo `256 ^ w` alone. -/
theorem be_congr {u v w : Nat} (h : u ≡ v [MOD 256 ^ w]) : be u w = be v w := by
  induction w with
  | zero => rfl
  | succ w ih =>
    have htail : be u w = be v w := ih (h.of_dvd (pow_dvd_pow 256 w.le_succ))
    have hhead : BitVec.ofNat 8 (u / 256 ^ w) = BitVec.ofNat 8 (v / 256 ^ w) := by
      apply BitVec.eq_of_toNat_eq
      rw [BitVec.toNat_ofNat, BitVec.toNat_ofNat, show 2 ^ 8 = 256 from rfl, ← Nat.mod_mul_right_div_self,
        ← Nat.mod_mul_right_div_self, ← pow_succ, h]
    rw [be, be, htail, hhead]

theorem be_beval (s : List Byte) : be (beval s) s.length = s := by
  induction s with
  | nil => rfl
  | cons b s ih =>
    have hhead : (b.toNat * 256 ^ s.length + beval s) / 256 ^ s.length = b.toNat := by
      rw [Nat.mul_comm, Nat.mul_add_div (by positivity), Nat.div_eq_of_lt (beval_lt s), Nat.add_zero]
    have htail : b.toNat * 256 ^ s.length + beval s ≡ beval s [MOD 256 ^ s.length] := by
      simp [Nat.ModEq]
    rw [List.length_cons, be, beval, hhead, be_congr htail, ih, BitVec.ofNat_toNat, BitVec.setWidth_eq]

/-- The first byte of `be v w` holds the most significant of its bits, the last one bits 7 to 0. -/
theorem be_getElem? {v w i : Nat} (h : i < w) :
    (be v w)[i]? = some (BitVec.ofNat 8 (v >>> (8 * (w - 1 - i)))) := by
  induction w generalizing i with
  | zero => omega
  | succ w ih =>
    cases i with
    | zero => simp [be, Nat.shiftRight_eq_div_pow, pow_mul]
    | succ i =>
      rw [be, List.getElem?_cons_succ, ih (by omega), show w + 1 - 1 - (i + 1) = w - 1 - i by omega]

/-- Settles O6: `be` reads back modulo `256 ^ w`, a byte sequence is below `256 ^ length`, and byte `i` is found by recursion
on the width. -/
theorem bigEndianIsInverse : Obligations.BigEndianIsInverse :=
  ⟨fun _ _ => beval_be_of_lt, be_beval, fun _ _ _ => be_getElem?⟩

/-! ### The width selector -/

/-- Each branch of `bewidth` stands between the test that failed before it and its own test; the last one takes whatever is
left below 2^64. -/
theorem bewidth_bounds {v : Nat} (hpos : 1 ≤ v) (hlt : v < 2 ^ 64) :
    1 ≤ bewidth v ∧ bewidth v ≤ 8 ∧ 256 ^ (bewidth v - 1) ≤ v ∧ v < 256 ^ bewidth v := by
  fun_cases bewidth v
  case case1 => omega
  all_goals exact ⟨by decide, by decide, by omega, by omega⟩

/-- Settles O5, branch by branch of `bewidth`. -/
theorem widthIsMinimal : Obligations.WidthIsMinimal :=
  fun _ => bewidth_bounds

end Sys2Proof.Machine

/-! The bounds on the pure functions that the state of a unit rests on, the rules of the two commands and of DEC's transfer,
and, said once, what one step of the machine can be. -/

namespace Sys2Proof.Machine

open Sys2Proof

/-! ### Bounds on the pure functions -/

theorem bewidth_le_eight (n : Nat) : bewidth n ≤ 8 := by
  fun_cases bewidth n <;> decide

/-- An encoding has a leading byte and at most eight payload bytes (R4, R96). -/
theorem encodeValue_length_bounds (x : Variant) (v : Word) :
    1 ≤ (encodeValue x v).length ∧ (encodeValue x v).length ≤ 9 := by
  have hw : bewidth v.toNat < 9 := Nat.lt_succ_of_le (bewidth_le_eight _)
  cases x with
  | a =>
    rw [encodeValue]
    fun_cases encodeA v <;> simp
    exact hw
  | b =>
    rw [encodeValue]
    fun_cases encodeB v <;> simp
    exact hw

/-- A multi-byte class has one to eight payload bytes, and only T2, with one, starts its accumulator above 0 (R113, R114). -/
theorem classify_multi_bounds {x : Variant} {L : Byte} {k : MultiKind} {n acc0 : Nat}
    (h : classify x L = .multi k n acc0) : 1 ≤ n ∧ n ≤ 8 ∧ (acc0 = 0 ∨ (n = 1 ∧ acc0 ≤ 6)) := by
  cases x with
  | a =>
    rw [classify] at h; revert h
    fun_cases classifyA L <;> intro h <;> cases h
    omega
  | b =>
    rw [classify] at h; revert h
    fun_cases classifyB L <;> intro h <;> cases h <;> omega

/-- Each row of the decoder answers a wire form, never a command (R69, R72). -/
theorem decodeForm_isForm {x : Variant} {bs rest : List Byte} {i : Instr}
    (h : decodeForm x bs = .ok (i, rest)) : i.isForm = true := by
  cases x with
  | a =>
    rw [decodeForm] at h; revert h
    fun_cases decodeFormA bs <;> intro h <;> cases h <;> rfl
  | b =>
    rw [decodeForm] at h; revert h
    fun_cases decodeFormB bs <;> intro h <;> cases h <;> rfl

/-- What the step fetches for DEC is a wire form. -/
theorem fetch_isForm {x : Variant} {s : RunState} {i : Instr} (h : fetch x s = some i) : i.isForm = true := by
  revert h
  fun_cases fetch x s <;> intro h <;> cases h
  case case1 hdecode => exact decodeForm_isForm hdecode

/-! ### The two commands -/

variable {x : Variant}

theorem encCommand_idle (v : Word) {s : RunState} (h : s.enc.phase = .idle) :
    encCommand x v s = encRun x s.sinkAnswers (encStart v s) := by
  simp [encCommand, h]

theorem encCommand_busy (v : Word) {s : RunState} (h : s.enc.phase = .emit) : encCommand x v s = .next s := by
  simp [encCommand, h]

theorem decCommand_idle {s : RunState} (h : s.dec.phase = .idle) :
    decCommand x s = decRun x s.source (decStart s) := by
  simp [decCommand, h]

theorem decCommand_busy {s : RunState} (h : s.dec.phase ≠ .idle) : decCommand x s = .next s := by
  unfold decCommand
  split
  · contradiction
  · rfl
  · rfl

theorem encCommand_frame {v : Word} {s t : RunState} (h : encCommand x v s = .next t) : EncFrame s t := by
  cases hp : s.enc.phase with
  | idle =>
    rw [encCommand_idle v hp] at h
    exact (encStart_frame v s).trans (encRun_frame _ h)
  | emit =>
    rw [encCommand_busy v hp] at h
    cases h
    exact EncFrame.refl s

theorem decCommand_frame {s t : RunState} (h : decCommand x s = .next t) : DecFrame s t := by
  by_cases hp : s.dec.phase = .idle
  · rw [decCommand_idle hp] at h
    exact (decStart_frame s).trans (decRun_frame _ h)
  · rw [decCommand_busy hp] at h
    cases h
    exact DecFrame.refl s

/-! ### DEC's transfer by phase and answer (R112, R122, R124, R125) -/

theorem decTransfer_idle (r : SrcAnswer) {s : RunState} (h : s.dec.phase = .idle) : decTransfer x r s = .next s := by
  simp [decTransfer, h]

theorem decTransfer_end {s : RunState} (h : s.dec.phase ≠ .idle) :
    decTransfer x .endOfStream s = .next (decCompleteError .truncated (srcRead .endOfStream s)) := by
  cases hp : s.dec.phase with
  | idle => exact absurd hp h
  | lead => simp [decTransfer, hp]
  | payload => simp [decTransfer, hp]

theorem decTransfer_err {s : RunState} (h : s.dec.phase ≠ .idle) :
    decTransfer x .err s = .next (decCompleteError .ioError (srcRead .err s)) := by
  cases hp : s.dec.phase with
  | idle => exact absurd hp h
  | lead => simp [decTransfer, hp]
  | payload => simp [decTransfer, hp]

theorem decTransfer_lead (L : Byte) {s : RunState} (h : s.dec.phase = .lead) :
    decTransfer x (.byte L) s = .next (leadByte x L (srcRead (.byte L) s)) := by
  simp [decTransfer, h]

theorem decTransfer_payload (b : Byte) {s : RunState} (h : s.dec.phase = .payload) :
    decTransfer x (.byte b) s = payloadByte x b (srcRead (.byte b) s) := by
  simp [decTransfer, h]

/-! ### What one step can be -/

/-- What happens in a step that takes an event: a start command runs at its unit, any other event is the platform's own.
`step_of_event` ties it to the step. -/
def happen (x : Variant) (e : Event) (s : RunState) : Host.Outcome RunState Fault Refusal :=
  match e with
  | .encStart v => encCommand x v s
  | .decStart => decCommand x s
  | e => platformEvent x e s

theorem decRun_singleton (r : SrcAnswer) {s : RunState} (h : s.dec.phase ≠ .idle) :
    decRun x [r] s = decTransfer x r s := by
  rw [decRun_cons r [] h]
  cases decTransfer x r s <;> rfl

theorem encRun_singleton (r : SinkAnswer) {s : RunState} (h : s.enc.phase = .emit) :
    encRun x [r] s = encTransfer x r s := by
  rw [encRun_cons r [] h]
  cases encTransfer x r s <;> rfl

theorem decReady_iff {s : RunState} : decReady s = true ↔ s.dec.phase ≠ .idle ∧ ∃ r rest, s.source = r :: rest := by
  simp [decReady, List.ne_nil_iff_exists_cons]

theorem encReady_iff {s : RunState} :
    encReady s = true ↔ s.enc.phase = .emit ∧ ∃ r rest, s.sinkAnswers = r :: rest := by
  simp [encReady, List.ne_nil_iff_exists_cons]

/-- DEC moves first, over the bytes of a whole form or by one transfer (log 6, log 7). -/
theorem step_of_decReady {s : State} (hd : decReady s.run = true) : ∃ rs, step s = perform (decRun · rs) s := by
  obtain ⟨hp, r, rest, hsrc⟩ := decReady_iff.1 hd
  cases hf : fetch s.variant s.run with
  | some i =>
    refine ⟨i.bytes.map .byte, ?_⟩
    simp only [step, hd, hf, if_true]
    exact exec_form (fetch_isForm hf) s
  | none =>
    refine ⟨[r], ?_⟩
    simp only [step, hd, hf, if_true, perform, decNext, hsrc, decRun_singleton r hp]

/-- ENC moves by one transfer when DEC has none to make (log 7). -/
theorem step_of_encReady {s : State} (hd : decReady s.run = false) (he : encReady s.run = true) :
    ∃ rs, step s = perform (encRun · rs) s := by
  obtain ⟨hp, r, rest, hsink⟩ := encReady_iff.1 he
  refine ⟨[r], ?_⟩
  simp only [step, hd, he, if_true, Bool.false_eq_true, if_false, perform, encNext, hsink, encRun_singleton r hp]

/-- With no transfer to make, the first event that has not to wait happens, in the state without it (log 7). -/
theorem step_of_event {s : State} {e : Event} {es : List Event} (hd : decReady s.run = false)
    (he : encReady s.run = false) (ht : takeEvent s.run = some (e, es)) :
    step s = perform (happen · e) { s with events := es } := by
  simp only [step, hd, he, ht, Bool.false_eq_true, if_false]
  cases e <;> rfl

theorem step_of_no_event {s : State} (hd : decReady s.run = false) (he : encReady s.run = false)
    (ht : takeEvent s.run = none) : step s = .next s := by
  simp only [step, hd, he, ht, Bool.false_eq_true, if_false]

/-- The moves of the machine: DEC's, ENC's, waiting, and what happens at an event. -/
inductive Moves (s t : State) : Prop where
  | dec (hd : decReady s.run = true) (rs : List SrcAnswer) (hrun : decRun s.variant rs s.run = .next t.run)
  | enc (hd : decReady s.run = false) (he : encReady s.run = true) (rs : List SinkAnswer)
      (hrun : encRun s.variant rs s.run = .next t.run)
  | wait (hd : decReady s.run = false) (he : encReady s.run = false) (ht : takeEvent s.run = none) (hst : t = s)
  | event (hd : decReady s.run = false) (he : encReady s.run = false) (e : Event) (es : List Event)
      (ht : takeEvent s.run = some (e, es)) (hrun : happen s.variant e { s.run with events := es } = .next t.run)

/-- A step that answers is one of the moves, and `VARIANT` stays (R14). -/
theorem step_moves {s t : State} (h : step s = .next t) : Moves s t ∧ t.variant = s.variant := by
  cases hd : decReady s.run with
  | true =>
    obtain ⟨rs, hs⟩ := step_of_decReady hd
    obtain ⟨hrun, hv⟩ := perform_eq_next (hs ▸ h)
    exact ⟨.dec hd rs hrun, hv⟩
  | false =>
    cases he : encReady s.run with
    | true =>
      obtain ⟨rs, hs⟩ := step_of_encReady hd he
      obtain ⟨hrun, hv⟩ := perform_eq_next (hs ▸ h)
      exact ⟨.enc hd he rs hrun, hv⟩
    | false =>
      cases ht : takeEvent s.run with
      | none =>
        rw [step_of_no_event hd he ht] at h
        cases h
        exact ⟨.wait hd he ht rfl, rfl⟩
      | some p =>
        obtain ⟨e, es⟩ := p
        rw [step_of_event hd he ht] at h
        obtain ⟨hrun, hv⟩ := perform_eq_next h
        exact ⟨.event hd he e es ht hrun, hv⟩

/-! ### Which event happens -/

/-- The first event that is nobody's passes every command held for a busy unit (log 9). -/
theorem firstFree_behind_held {s : RunState} {e : Event} (he : e.unit = none) (held es : List Event)
    (hheld : ∀ c ∈ held, (c = .decStart ∧ s.dec.phase ≠ .idle) ∨ (s.enc.phase = .emit ∧ ∃ v, c = .encStart v))
    (us : List CoreUnit) : firstFree s us (held ++ e :: es) = some (e, held ++ es) := by
  induction held generalizing us with
  | nil => exact firstFree_free es (waits_of_no_unit s us he)
  | cons c held ih =>
    have hc : c.waits s us = true := by
      obtain ⟨rfl, hbusy⟩ | ⟨hbusy, v, rfl⟩ := hheld c List.mem_cons_self
      · exact waits_of_busy us rfl rfl (by simp [unitIdle, hbusy])
      · exact waits_of_busy us rfl rfl (by simp [unitIdle, hbusy])
    rw [List.cons_append, firstFree_waits _ hc, ih (fun c' h' => hheld c' (List.mem_cons_of_mem c h'))]
    rfl

theorem takeEvent_encStart {s : RunState} {v : Word} {es : List Event} (hp : s.enc.phase = .idle)
    (hev : s.events = .encStart v :: es) : takeEvent s = some (.encStart v, es) := by
  rw [takeEvent, hev]
  exact firstFree_free es (by simp [hp])

theorem takeEvent_decStart {s : RunState} {es : List Event} (hp : s.dec.phase = .idle)
    (hev : s.events = .decStart :: es) : takeEvent s = some (.decStart, es) := by
  rw [takeEvent, hev]
  exact firstFree_free es (by simp [hp])

theorem takeEvent_read {s : RunState} {f : ResultField} {es : List Event} (hev : s.events = .read f :: es) :
    takeEvent s = some (.read f, es) := by
  rw [takeEvent, hev]
  exact firstFree_free es (read_waits s f)

/-- Whatever happens at an event, the events to come are as they were. -/
theorem happen_events {e : Event} {s t : RunState} (h : happen x e s = .next t) : t.events = s.events := by
  cases e with
  | encStart v => exact (encCommand_frame h).events
  | decStart => exact (decCommand_frame h).events
  | sinkReady answers => cases h; rfl
  | sourceReady answers => cases h; rfl
  | reset b => cases h; rfl
  | read f =>
    obtain ⟨o, -, rfl⟩ := observe_next h
    rfl

end Sys2Proof.Machine

/-! The invariant of the core: each operation of a unit keeps that unit's part of it, the frames keep the other part, so
every move of the machine keeps the whole. Then the statements O47, O45, O46 and O49. -/

namespace Sys2Proof.Machine

open Sys2Proof

variable {x : Variant}

/-! ### ENC -/

theorem encInv_completed {st : Status} (e : Enc) (hst : st = .ok ∨ st = .ioError) :
    EncInv x { e with phase := .idle, done := true, status := some st } :=
  ⟨nofun, by simp, fun st' h => Option.some.inj h ▸ hst⟩

theorem encInv_without_result {e : Enc} (hp : e.phase = .idle) (hd : e.done = false) (hst : e.status = none) :
    EncInv x e :=
  ⟨by simp [hp], by simp [hd, hst], by simp [hst]⟩

theorem encStart_keeps_encInv (v : Word) (s : RunState) : EncInv x (encStart v s).enc :=
  ⟨fun _ => ⟨rfl, (encodeValue_length_bounds x v).1⟩, by simp, nofun⟩

/-- The index of a byte that is not the last stays in range: an encoding is at most 9 bytes, so its 4 bits do not wrap. -/
theorem encTransfer_keeps_encInv {r : SinkAnswer} {s t : RunState} (hp : s.enc.phase = .emit)
    (hi : EncInv x s.enc) (h : encTransfer x r s = .next t) : EncInv x t.enc := by
  obtain ⟨b, -, ⟨-, rfl⟩ | ⟨-, -, rfl⟩ | ⟨-, hlast, rfl⟩⟩ := encTransfer_next h
  · exact encInv_completed _ (.inr rfl)
  · exact encInv_completed _ (.inl rfl)
  · obtain ⟨hemit, hstatus, hcode⟩ := hi
    obtain ⟨hdone, hidx⟩ := hemit hp
    have hlen := (encodeValue_length_bounds x s.enc.value).2
    have hnext : (s.enc.idx + 1#4).toNat = s.enc.idx.toNat + 1 := by bv_omega
    exact ⟨fun _ => ⟨hdone, by simp only [hnext]; omega⟩, hstatus, hcode⟩

theorem encRun_keeps_encInv (rs : List SinkAnswer) {s t : RunState} (hi : EncInv x s.enc)
    (h : encRun x rs s = .next t) : EncInv x t.enc := by
  induction rs generalizing s with
  | nil => cases h; exact hi
  | cons r rs ih =>
    cases hp : s.enc.phase with
    | idle =>
      rw [encRun_idle _ hp] at h
      cases h
      exact hi
    | emit =>
      rw [encRun_cons r rs hp] at h
      obtain ⟨u, hu, hrest⟩ := andThen_eq_next h
      exact ih (encTransfer_keeps_encInv hp hi hu) hrest

theorem encCommand_keeps_encInv {v : Word} {s t : RunState} (hi : EncInv x s.enc)
    (h : encCommand x v s = .next t) : EncInv x t.enc := by
  cases hp : s.enc.phase with
  | idle =>
    rw [encCommand_idle v hp] at h
    exact encRun_keeps_encInv _ (encStart_keeps_encInv v s) h
  | emit =>
    rw [encCommand_busy v hp] at h
    cases h
    exact hi

/-! ### DEC -/

theorem payloadBounds_of_class {d : Dec} {k : MultiKind} {n acc0 : Nat} (hc : classify x d.lead = .multi k n acc0) :
    PayloadBounds x d ↔
      1 ≤ d.rem.toNat ∧ d.rem.toNat ≤ n ∧ d.acc.toNat < (acc0 + 1) * 256 ^ (n - d.rem.toNat) := by
  simp [PayloadBounds, hc]

/-- The bounds hold only behind a leading byte of a multi-byte class. -/
theorem PayloadBounds.exists_class {d : Dec} (h : PayloadBounds x d) : ∃ k n acc0, classify x d.lead = .multi k n acc0 := by
  unfold PayloadBounds at h
  split at h
  · exact ⟨_, _, _, ‹_›⟩
  · exact h.elim
  · exact h.elim

theorem decInv_completed_ok (v : Word) (d : Dec) :
    DecInv x { d with phase := .idle, done := true, status := some .ok, value := some v } :=
  ⟨fun h => absurd rfl h, nofun, by simp, by simp⟩

theorem decInv_completed_error {st : Status} (hst : st ≠ .ok) (d : Dec) :
    DecInv x { d with phase := .idle, done := true, status := some st, value := none } :=
  ⟨fun h => absurd rfl h, nofun, by simp, by simp [hst]⟩

theorem decInv_without_result {d : Dec} (hp : d.phase ≠ .payload) (hd : d.done = false) (hst : d.status = none)
    (hv : d.value = none) : DecInv x d :=
  ⟨fun _ => hd, fun h => absurd h hp, by simp [hd, hst], by simp [hst, hv]⟩

theorem decStart_keeps_decInv (s : RunState) : DecInv x (decStart s).dec :=
  decInv_without_result (by simp) rfl rfl rfl

/-- After the leading byte all `n` payload bytes are missing and the accumulator is `acc0` (R112). -/
theorem leadByte_keeps_decInv (L : Byte) {s : RunState} (hp : s.dec.phase = .lead) (hi : DecInv x s.dec) :
    DecInv x (leadByte x L s).dec := by
  obtain ⟨-, h⟩ | ⟨-, h⟩ | ⟨k, n, acc0, hc, h⟩ := leadByte_cases x L s <;> rw [h]
  · exact decInv_completed_ok _ _
  · exact decInv_completed_error (by simp) _
  · obtain ⟨hdone, -, hstatus, hvalue⟩ := hi
    refine ⟨fun _ => hdone (by simp [hp]), fun _ => (payloadBounds_of_class hc).2 ?_, hstatus, hvalue⟩
    obtain ⟨h1, h8, hacc⟩ := classify_multi_bounds hc
    have hrem : (BitVec.ofNat 4 n).toNat = n := by simp; omega
    have hacc' : (BitVec.ofNat 64 acc0).toNat = acc0 := by simp; omega
    simp only [hrem, hacc', Nat.sub_self, pow_zero, Nat.mul_one]
    omega

/-- A payload byte that is not the last multiplies the accumulator's bound by 256 and takes one from the count (R122). -/
theorem payloadBounds_shiftIn {b : Byte} {d : Dec} (h : PayloadBounds x d) (hlast : d.rem ≠ 1#4) :
    PayloadBounds x { d with acc := (d.acc <<< 8) ||| b.setWidth 64, rem := d.rem - 1#4 } := by
  obtain ⟨k, n, acc0, hc⟩ := h.exists_class
  obtain ⟨h1, hn, hacc⟩ := (payloadBounds_of_class hc).1 h
  have hrem : (d.rem - 1#4).toNat = d.rem.toNat - 1 := by bv_omega
  have hmore : d.rem.toNat ≠ 1 := fun h => hlast (BitVec.eq_of_toNat_eq h)
  rw [payloadBounds_of_class (by exact hc)]
  simp only [hrem]
  refine ⟨by omega, by omega, ?_⟩
  have hb : b.toNat < 256 := b.isLt
  rw [shiftIn_eq, BitVec.toNat_ofNat]
  calc (d.acc.toNat * 256 + b.toNat) % 2 ^ 64
    _ ≤ d.acc.toNat * 256 + b.toNat := Nat.mod_le _ _
    _ < (d.acc.toNat + 1) * 256 := by omega
    _ ≤ (acc0 + 1) * 256 ^ (n - d.rem.toNat) * 256 := Nat.mul_le_mul_right _ hacc
    _ = (acc0 + 1) * 256 ^ (n - (d.rem.toNat - 1)) := by
      rw [Nat.mul_assoc, ← pow_succ, show n - d.rem.toNat + 1 = n - (d.rem.toNat - 1) by omega]

theorem payloadByte_keeps_decInv {b : Byte} {s t : RunState} (hp : s.dec.phase = .payload) (hi : DecInv x s.dec)
    (h : payloadByte x b s = .next t) : DecInv x t.dec := by
  obtain ⟨-, -, ⟨-, rfl⟩ | ⟨hlast, rfl⟩⟩ := payloadByte_next h
  · exact decInv_completed_ok _ _
  · obtain ⟨hdone, hpayload, hstatus, hvalue⟩ := hi
    exact ⟨hdone, fun _ => payloadBounds_shiftIn (hpayload hp) hlast, hstatus, hvalue⟩

theorem decTransfer_keeps_decInv {r : SrcAnswer} {s t : RunState} (hi : DecInv x s.dec)
    (h : decTransfer x r s = .next t) : DecInv x t.dec := by
  obtain ⟨-, rfl⟩ | ⟨-, -, rfl⟩ | ⟨-, -, rfl⟩ | ⟨b, hp, -, rfl⟩ | ⟨b, hp, -, h⟩ := decTransfer_next h
  · exact hi
  · exact decInv_completed_error (by simp) _
  · exact decInv_completed_error (by simp) _
  · exact leadByte_keeps_decInv b hp hi
  · exact payloadByte_keeps_decInv (s := srcRead (.byte b) s) hp hi h

theorem decRun_keeps_decInv (rs : List SrcAnswer) {s t : RunState} (hi : DecInv x s.dec)
    (h : decRun x rs s = .next t) : DecInv x t.dec := by
  induction rs generalizing s with
  | nil => cases h; exact hi
  | cons r rs ih =>
    by_cases hp : s.dec.phase = .idle
    · rw [decRun_idle _ hp] at h
      cases h
      exact hi
    · rw [decRun_cons r rs hp] at h
      obtain ⟨u, hu, hrest⟩ := andThen_eq_next h
      exact ih (decTransfer_keeps_decInv hi hu) hrest

theorem decCommand_keeps_decInv {s t : RunState} (hi : DecInv x s.dec) (h : decCommand x s = .next t) :
    DecInv x t.dec := by
  by_cases hp : s.dec.phase = .idle
  · rw [decCommand_idle hp] at h
    exact decRun_keeps_decInv _ (decStart_keeps_decInv s) h
  · rw [decCommand_busy hp] at h
    cases h
    exact hi

/-! ### The core -/

/-- `CoreInv` said of a run state, which is what an operation is given. -/
def RunInv (x : Variant) (s : RunState) : Prop := EncInv x s.enc ∧ DecInv x s.dec

theorem coreInv_iff (s : State) : CoreInv s ↔ RunInv s.variant s.run := Iff.rfl

theorem EncFrame.keeps_runInv {s t : RunState} (hf : EncFrame s t) (hi : RunInv x s) (ht : EncInv x t.enc) :
    RunInv x t :=
  ⟨ht, hf.dec ▸ hi.2⟩

theorem DecFrame.keeps_runInv {s t : RunState} (hf : DecFrame s t) (hi : RunInv x s) (ht : DecInv x t.dec) :
    RunInv x t :=
  ⟨hf.enc ▸ hi.1, ht⟩

theorem resetCore_runInv (b : Option Byte) (s : RunState) : RunInv x (resetCore x b s) :=
  ⟨encInv_without_result rfl rfl rfl, decInv_without_result (by simp) rfl rfl rfl⟩

theorem happen_keeps_runInv {e : Event} {s t : RunState} (hi : RunInv x s) (h : happen x e s = .next t) :
    RunInv x t := by
  cases e with
  | encStart v => exact (encCommand_frame h).keeps_runInv hi (encCommand_keeps_encInv hi.1 h)
  | decStart => exact (decCommand_frame h).keeps_runInv hi (decCommand_keeps_decInv hi.2 h)
  | sinkReady answers => cases h; exact hi
  | sourceReady answers => cases h; exact hi
  | reset b => cases h; exact resetCore_runInv b s
  | read f =>
    obtain ⟨o, -, rfl⟩ := observe_next h
    exact hi

theorem resetOf_coreInv (x : Variant) : CoreInv (State.resetOf x) :=
  ⟨encInv_without_result rfl rfl rfl, decInv_without_result (by simp [State.resetOf]) rfl rfl rfl⟩

/-- Settles O47: whichever move the step is, the unit that moves keeps its part of the invariant and the other one keeps
its state. -/
theorem everyStepKeepsTheInvariant : Obligations.EveryStepKeepsTheInvariant := by
  intro s t hi h
  obtain ⟨hmove, hv⟩ := step_moves h
  rw [coreInv_iff, hv]
  cases hmove with
  | dec _ rs hrun => exact (decRun_frame rs hrun).keeps_runInv hi (decRun_keeps_decInv rs hi.2 hrun)
  | enc _ _ rs hrun => exact (encRun_frame rs hrun).keeps_runInv hi (encRun_keeps_encInv rs hi.1 hrun)
  | wait _ _ _ hst => exact hst ▸ hi
  | event _ _ e es _ hrun => exact happen_keeps_runInv (s := { s.run with events := es }) hi hrun

/-- Settles O45: neither unit is in flight after reset, and no result is out. -/
theorem invariantHoldsAtReset : Obligations.InvariantHoldsAtReset :=
  ⟨resetOf_coreInv Config.resetVariant, resetOf_coreInv⟩

/-- Settles O46, field by field of `State.resetOf`. -/
theorem resetLeavesBothUnitsIdle : Obligations.ResetLeavesBothUnitsIdle :=
  fun _ => ⟨rfl, rfl, rfl, rfl, rfl, rfl, rfl, rfl⟩

/-- Settles O49: every move performs an operation that answers a run state, which holds no `VARIANT`. -/
theorem variantIsConstant : Obligations.VariantIsConstant :=
  fun _ _ h => (step_moves h).2

end Sys2Proof.Machine

/-! Runs of transfers in closed form: the bytes a sink has accepted, the part of a value a source has delivered, the bytes of
a form taken one by one. Then the statements O27, O34 and O44. -/

namespace Sys2Proof.Machine

open Sys2Proof

variable {x : Variant}

/-! ### ENC while the sink accepts (R97, R99) -/

/-- ENC in EMIT with `k` bytes more accepted, none of them the last one (R97). -/
def afterAccepted (x : Variant) (k : Nat) (s : RunState) : RunState :=
  { s with
    sink := s.sink ++ ((encodeValue x s.enc.value).drop s.enc.idx.toNat).take k
    sinkAnswers := s.sinkAnswers.drop k
    enc := { s.enc with idx := s.enc.idx + BitVec.ofNat 4 k } }

theorem afterAccepted_zero (s : RunState) : afterAccepted x 0 s = s := by
  simp [afterAccepted]

theorem afterAccepted_succ (k : Nat) {s : RunState} (hk : s.enc.idx.toNat + 1 < (encodeValue x s.enc.value).length) :
    afterAccepted x k (afterAccepted x 1 s) = afterAccepted x (k + 1) s := by
  have hlen := (encodeValue_length_bounds x s.enc.value).2
  have hidx : (s.enc.idx + BitVec.ofNat 4 1).toNat = s.enc.idx.toNat + 1 := by bv_omega
  have hsum : s.enc.idx + BitVec.ofNat 4 1 + BitVec.ofNat 4 k = s.enc.idx + BitVec.ofNat 4 (k + 1) := by
    rw [BitVec.ofNat_add, BitVec.add_assoc, BitVec.add_comm (BitVec.ofNat 4 1)]
  simp only [afterAccepted, hidx, hsum, List.append_assoc, List.drop_drop, Nat.add_comm 1 k]
  rw [Nat.add_comm k 1, List.take_add, List.drop_drop]

/-- A byte that is accepted and not the last one (R97). -/
theorem encTransfer_accepted {s : RunState} (hk : s.enc.idx.toNat + 1 < (encodeValue x s.enc.value).length) :
    encTransfer x .ok s = .next (afterAccepted x 1 s) := by
  have hlt : s.enc.idx.toNat < (encodeValue x s.enc.value).length := by omega
  have hbyte : packerByte x s = some (encodeValue x s.enc.value)[s.enc.idx.toNat] := List.getElem?_eq_getElem hlt
  have hpart : ((encodeValue x s.enc.value).drop s.enc.idx.toNat).take 1 =
      [(encodeValue x s.enc.value)[s.enc.idx.toNat]] := by
    rw [List.drop_eq_getElem_cons hlt]; rfl
  simp [encTransfer, hbyte, hk.ne, afterAccepted, hpart, sinkWrite]

/-- A run over `k` accepted bytes before the last one goes on from index `k` (R97, R99). -/
theorem encRun_accepted (k : Nat) (rest : List SinkAnswer) {s : RunState} (hp : s.enc.phase = .emit)
    (hk : s.enc.idx.toNat + k < (encodeValue x s.enc.value).length) :
    encRun x (List.replicate k .ok ++ rest) s = encRun x rest (afterAccepted x k s) := by
  induction k generalizing s with
  | zero => rw [afterAccepted_zero]; rfl
  | succ k ih =>
    have hlen := (encodeValue_length_bounds x s.enc.value).2
    have hidx : (afterAccepted x 1 s).enc.idx.toNat = s.enc.idx.toNat + 1 := by
      simp only [afterAccepted]; bv_omega
    have hrest : (afterAccepted x 1 s).enc.idx.toNat + k < (encodeValue x (afterAccepted x 1 s).enc.value).length := by
      rw [hidx]; simp only [afterAccepted]; omega
    rw [List.replicate_succ, List.cons_append, encRun_cons _ _ hp, encTransfer_accepted (by omega), andThen_next,
      ih (s := afterAccepted x 1 s) hp hrest, afterAccepted_succ k (by omega)]

/-- Settles O27: after the start the run accepts `k` bytes from index 0, and then the sink has not answered. -/
theorem encodeWaitsForTheSink : Obligations.EncodeWaitsForTheSink := by
  intro s v k hidle hk hanswers
  have hrun : encCommand s.variant v s.run = .next (afterAccepted s.variant k (encStart v s.run)) := by
    have h := encRun_accepted (x := s.variant) k [] (s := encStart v s.run) rfl (by simpa using hk)
    rw [encCommand_idle v hidle, hanswers, ← List.append_nil (List.replicate k _), h]
    rfl
  rw [exec_encode, perform_of_next hrun]
  simp [afterAccepted, encStart, hanswers]

/-! ### DEC while the source delivers (R112, R122) -/

/-- A truncated value is no byte, or a leading byte of a multi-byte class with less payload than it announces (R124,
R128). -/
theorem decodeBytes_truncated {bs : List Byte} (h : (decodeBytes x bs).1 = .truncated) :
    bs = [] ∨ ∃ L p k n acc0, bs = L :: p ∧ classify x L = .multi k n acc0 ∧ p.length < n := by
  revert h
  fun_cases decodeBytes x bs <;> intro h
  case case1 => exact .inl rfl
  case case4 L p k n acc0 hc hshort => exact .inr ⟨L, p, k, n, acc0, rfl, hc, hshort⟩
  all_goals cases h

/-- Fewer payload bytes than a class announces do not fill the accumulator (R122, R148). -/
theorem partial_payload_lt {L : Byte} {k : MultiKind} {n acc0 : Nat} {p : List Byte}
    (hc : classify x L = .multi k n acc0) (hshort : p.length < n) : acc0 * 256 ^ p.length + beval p < 2 ^ 64 := by
  obtain ⟨-, h8, rfl | ⟨rfl, hacc⟩⟩ := classify_multi_bounds hc
  · have hpow : 256 ^ p.length ≤ 256 ^ 7 := Nat.pow_le_pow_right (by decide) (by omega)
    have hp := beval_lt p
    omega
  · obtain rfl : p = [] := List.length_eq_zero_iff.1 (by omega)
    simp [beval]
    omega

/-- A run over a leading byte and part of its payload waits in PAYLOAD (R112, R122, R130). -/
theorem decRun_partial {L : Byte} {p : List Byte} {s : RunState} {k : MultiKind} {n acc0 : Nat}
    (hp : s.dec.phase = .lead) (hc : classify x L = .multi k n acc0) (hshort : p.length < n) :
    decRun x ((L :: p).map .byte) s = .next { s with
      source := s.source.drop (1 + p.length)
      srcPos := s.srcPos + (1 + p.length)
      dec := { s.dec with
        phase := .payload, lead := L
        acc := BitVec.ofNat 64 (acc0 * 256 ^ p.length + beval p)
        rem := BitVec.ofNat 4 n - BitVec.ofNat 4 p.length } } := by
  obtain ⟨-, h8, -⟩ := classify_multi_bounds hc
  have hn : (BitVec.ofNat 4 n).toNat = n := by simp; omega
  rw [List.map_cons, decRun_cons _ _ (by simp [hp]), decTransfer_lead_multi hp hc, andThen_next,
    ← List.append_nil (p.map _), decRun_payload_part p [] rfl (by rw [hn]; exact hshort) (by rw [hn]; exact h8)]
  simp only [decRun, afterPart, ofNat_reduced, ← List.drop_one, List.drop_drop, Nat.add_assoc]

/-- Settles O34: with no byte DEC is as the start left it; with part of a value it waits in PAYLOAD, in bounds. -/
theorem decodeWaitsForTheSource : Obligations.DecodeWaitsForTheSource := by
  intro s bs hidle hsource htrunc
  obtain rfl | ⟨L, p, k, n, acc0, rfl, hc, hshort⟩ := decodeBytes_truncated htrunc
  · refine ⟨(decStart s.run).dec, ?_, rfl, rfl, rfl, fun _ => rfl, nofun⟩
    have hrun : decCommand s.variant s.run = .next (decStart s.run) := by
      rw [decCommand_idle hidle, hsource]
      rfl
    rw [exec_decode, perform_of_next hrun]
    simp [decStart, hsource]
  · have hrun := decRun_partial (x := s.variant) (s := decStart s.run) rfl hc hshort
    rw [← hsource, ← decCommand_idle hidle] at hrun
    rw [exec_decode, perform_of_next hrun]
    refine ⟨_, by simp [decStart, hsource, Nat.add_comm 1]; rfl, rfl, rfl, rfl, nofun, ?_⟩
    rintro _ _ ⟨⟩
    refine ⟨rfl, rfl, fun k' n' acc0' hc' => ?_⟩
    obtain ⟨-, rfl, rfl⟩ := LeadClass.multi.inj (hc.symm.trans hc')
    obtain ⟨-, h8, -⟩ := classify_multi_bounds hc
    exact ⟨by bv_omega, Nat.mod_eq_of_lt (partial_payload_lt hc hshort)⟩

/-! ### A form as its transfers (R43, R47) -/

/-- A transfer of a DEC in flight uses up the answer. -/
theorem decTransfer_source {r : SrcAnswer} {s t : RunState} (hp : s.dec.phase ≠ .idle)
    (h : decTransfer x r s = .next t) : t.source = s.source.tail := by
  obtain ⟨hidle, -⟩ | ⟨-, -, rfl⟩ | ⟨-, -, rfl⟩ | ⟨b, -, -, rfl⟩ | ⟨b, -, -, h⟩ := decTransfer_next h
  · exact absurd hidle hp
  · simp
  · simp
  · obtain ⟨-, h⟩ | ⟨-, h⟩ | ⟨k, n, acc0, -, h⟩ := leadByte_cases x b (srcRead (.byte b) s) <;> rw [h] <;> simp
  · obtain ⟨-, -, ⟨-, rfl⟩ | ⟨-, rfl⟩⟩ := payloadByte_next h <;> simp

/-- An idle DEC makes no transfer, whatever its source holds (R26). -/
theorem decNext_idle {s : RunState} (hp : s.dec.phase = .idle) : decNext x s = .next s := by
  unfold decNext
  split
  · rfl
  · exact decTransfer_idle _ hp

theorem decTransfers_idle (n : Nat) {s : State} (hp : s.dec.phase = .idle) : decTransfers n s = .next s := by
  induction n with
  | zero => rfl
  | succ n ih => rw [decTransfers, perform_of_next (decNext_idle hp), andThen_next, ih]

/-- Performing two operations one after another is performing the first and then the second. -/
theorem perform_andThen (f g : Variant → RunState → Host.Outcome RunState Fault Refusal) (s : State) :
    perform (fun x r => andThen (f x r) (g x)) s = andThen (perform f s) (perform g) := by
  simp only [perform]
  cases f s.variant s.run <;> rfl

/-- Bytes delivered to DEC are the transfers it makes of them when they stand next on its source. -/
theorem perform_deliver (bs : List Byte) {s : State} {rest : List SrcAnswer}
    (hsource : s.source = bs.map .byte ++ rest) : perform (deliver · bs) s = decTransfers bs.length s := by
  induction bs generalizing s with
  | nil => rfl
  | cons b bs ih =>
    by_cases hp : s.dec.phase = .idle
    · rw [decTransfers_idle _ hp]
      exact perform_of_next (decRun_idle _ hp)
    · have hfirst : perform decNext s = perform (decTransfer · (.byte b)) s := by
        simp [perform, decNext, hsource]
      have hrun : perform (deliver · (b :: bs)) s =
          andThen (perform (decTransfer · (.byte b)) s) (perform (deliver · bs)) := by
        rw [← perform_andThen]
        simp only [perform, deliver, List.map_cons, decRun_cons _ _ hp]
        rfl
      rw [hrun, List.length_cons, decTransfers, hfirst]
      cases ht : perform (decTransfer · (.byte b)) s with
      | next t =>
        refine ih (s := t) ?_
        rw [decTransfer_source hp (perform_eq_next ht).1, hsource]
        rfl
      | fault e => rfl
      | refused e => rfl

/-- Settles O44: a form delivers its bytes, an idle DEC takes none of them, and otherwise each is one transfer. -/
theorem formIsItsTransfers : Obligations.FormIsItsTransfers := by
  intro s i rest hform
  rw [exec_form hform]
  exact ⟨fun hidle => perform_of_next (decRun_idle _ hidle), perform_deliver i.bytes⟩

end Sys2Proof.Machine

/-! One step seen from outside: the command it takes, the commands it leaves, the unit it does not touch, the field it reads.
The statements O19, O28, O53 and O55. -/

namespace Sys2Proof.Machine

open Sys2Proof

/-! ### Commands -/

/-- Settles O19: the command is the first event that has not to wait, and it runs as `exec` runs it. -/
theorem stepRunsTheOfferedCommand : Obligations.StepRunsTheOfferedCommand :=
  fun _ _ hd he => ⟨fun _ hidle hev => step_of_event hd he (takeEvent_encStart hidle hev),
    fun hidle hev => step_of_event hd he (takeEvent_decStart hidle hev)⟩

/-- Taking an event away that is no command of `u` leaves the commands of `u` as they were. -/
theorem commandsOf_remove {u : CoreUnit} {e : Event} (pre post : List Event)
    (h : ¬(e.instr.isSome = true ∧ e.unit = some u)) :
    commandsOf u (pre ++ post) = commandsOf u (pre ++ e :: post) := by
  have hfalse : (e.instr.isSome && decide (e.unit = some u)) = false := by simpa using h
  simp only [commandsOf, List.filter_append, List.filter_cons, hfalse, Bool.false_eq_true, if_false]

/-- The event that is taken is no command of a busy unit (R16, R18). -/
theorem takeEvent_commandsOf {s : RunState} {e : Event} {es : List Event} {u : CoreUnit} (hbusy : unitIdle s u = false)
    (h : takeEvent s = some (e, es)) : commandsOf u es = commandsOf u s.events := by
  obtain ⟨pre, post, hev, rfl, hidle⟩ := firstFree_eq_some h
  rw [hev]
  refine commandsOf_remove pre post fun ⟨hcommand, hunit⟩ => ?_
  rw [hidle hcommand u hunit] at hbusy
  cases hbusy

/-- No step takes a command of a busy unit. -/
theorem step_commandsOf {s t : State} {u : CoreUnit} (hbusy : unitIdle s.run u = false) (h : step s = .next t) :
    commandsOf u t.events = commandsOf u s.events := by
  cases (step_moves h).1 with
  | dec _ rs hrun => rw [(decRun_frame rs hrun).events]
  | enc _ _ rs hrun => rw [(encRun_frame rs hrun).events]
  | wait _ _ _ hst => rw [hst]
  | event _ _ e es ht hrun =>
    rw [happen_events hrun]
    exact takeEvent_commandsOf hbusy ht

/-- Settles O28: a busy unit's command does nothing and is never the event taken; the ports' events pass it. -/
theorem busyUnitTurnsTheCommandAway : Obligations.BusyUnitTurnsTheCommandAway := by
  refine ⟨fun s v hbusy => (exec_encode v s).trans (perform_of_next (encCommand_busy v hbusy)),
    fun s hbusy => (exec_decode s).trans (perform_of_next (decCommand_busy hbusy)),
    fun s t h => ⟨fun hbusy => step_commandsOf (by simp [unitIdle, hbusy]) h,
      fun hbusy => step_commandsOf (by simp [unitIdle, hbusy]) h⟩,
    fun s held es hd he hheld => ⟨fun answers hev => ?_, fun answers hev => ?_⟩⟩
  · have ht : takeEvent s.run = some (.sinkReady answers, held ++ es) := by
      rw [takeEvent, hev]; exact firstFree_behind_held rfl held es hheld []
    rw [step_of_event hd he ht]
    rfl
  · have ht : takeEvent s.run = some (.sourceReady answers, held ++ es) := by
      rw [takeEvent, hev]; exact firstFree_behind_held rfl held es hheld []
    rw [step_of_event hd he ht]
    rfl

/-! ### The other unit -/

/-- A step of DEC, by transfers or by its start command, is an operation of DEC once its event is taken (R10). -/
theorem step_decFrame {s t : State} {es : List Event} (h : step s = .next t)
    (hown : decReady s.run = true ∨ (encReady s.run = false ∧ (s.dec.phase = .idle ∧ s.events = .decStart :: es))) :
    ∃ evs, DecFrame { s.run with events := evs } t.run := by
  obtain hd | ⟨he, hidle, hev⟩ := hown
  · obtain ⟨rs, hs⟩ := step_of_decReady hd
    exact ⟨s.events, decRun_frame rs (perform_eq_next (hs ▸ h)).1⟩
  · have hd : decReady s.run = false := by simp [decReady, hidle]
    rw [step_of_event hd he (takeEvent_decStart hidle hev)] at h
    exact ⟨es, decCommand_frame (perform_eq_next h).1⟩

/-- A step of ENC, by a transfer or by its start command, is an operation of ENC once its event is taken (R10). -/
theorem step_encFrame {s t : State} {es : List Event} {v : Word} (h : step s = .next t) (hd : decReady s.run = false)
    (hown : encReady s.run = true ∨ (s.enc.phase = .idle ∧ s.events = .encStart v :: es)) :
    ∃ evs, EncFrame { s.run with events := evs } t.run := by
  obtain he | ⟨hidle, hev⟩ := hown
  · obtain ⟨rs, hs⟩ := step_of_encReady hd he
    exact ⟨s.events, encRun_frame rs (perform_eq_next (hs ▸ h)).1⟩
  · have he : encReady s.run = false := by simp [encReady, hidle]
    rw [step_of_event hd he (takeEvent_encStart hidle hev)] at h
    exact ⟨es, encCommand_frame (perform_eq_next h).1⟩

/-- Settles O53: the step is an operation of the one unit, whose frame holds the other unit and its stream. -/
theorem unitsShareNothing : Obligations.UnitsShareNothing := by
  intro s t es h
  refine ⟨fun hown => ?_, fun v ⟨hd, hown⟩ => ?_⟩
  · obtain ⟨evs, hf⟩ := step_decFrame h hown
    exact ⟨hf.enc, hf.sink, hf.sinkAnswers⟩
  · obtain ⟨evs, hf⟩ := step_encFrame h hd hown
    exact ⟨hf.dec, hf.source, hf.srcPos⟩

/-! ### The platform's reads -/

/-- Under the invariant the status is there while `done` is 1, and a read gives it (R19). -/
theorem readField_encStatus {x : Variant} {s : RunState} (hi : EncInv x s.enc) (hdone : s.enc.done = true) :
    ∃ st, s.enc.status = some st ∧ readField x .encStatus s = some (.status st) := by
  obtain ⟨-, hstatus, -⟩ := hi
  obtain ⟨st, hst⟩ := Option.isSome_iff_exists.1 (hstatus.2 hdone)
  exact ⟨st, hst, by simp [readField, hdone, hst]⟩

theorem readField_decStatus {x : Variant} {s : RunState} (hi : DecInv x s.dec) (hdone : s.dec.done = true) :
    ∃ st, s.dec.status = some st ∧ readField x .decStatus s = some (.status st) := by
  obtain ⟨-, -, hstatus, -⟩ := hi
  obtain ⟨st, hst⟩ := Option.isSome_iff_exists.1 (hstatus.2 hdone)
  exact ⟨st, hst, by simp [readField, hdone, hst]⟩

theorem readField_decValue {x : Variant} {s : RunState} (hi : DecInv x s.dec) (hdone : s.dec.done = true)
    (hok : s.dec.status = some .ok) : ∃ v, s.dec.value = some v ∧ readField x .decValue s = some (.value v) := by
  obtain ⟨-, -, -, hvalue⟩ := hi
  obtain ⟨v, hv⟩ := Option.isSome_iff_exists.1 (hvalue.2 hok)
  exact ⟨v, hv, by simp [readField, hdone, hok, hv]⟩

section

variable {s : State} {f : ResultField} {es : List Event} (hd : decReady s.run = false) (he : encReady s.run = false)
  (hev : s.events = .read f :: es)

include hd he hev

/-- A read of a field that holds a value records it and changes nothing else (R24). -/
theorem step_read {o : Observation} (ho : readField s.variant f s.run = some o) :
    step s = .next { s with events := es, observed := s.observed ++ [o] } := by
  have hread : observe s.variant f { s.run with events := es } =
      .next { s.run with events := es, observed := s.observed ++ [o] } := by
    have ho' : readField s.variant f { s.run with events := es } = some o := ho
    simp [observe, ho']
  rw [step_of_event hd he (takeEvent_read hev)]
  exact perform_of_next (s := { s with events := es }) hread

/-- A read of a field that holds no value is the platform's fault (R19, U4; log 13). -/
theorem step_read_fault (ho : readField s.variant f s.run = none) : step s = .fault (.unspecifiedRead f) := by
  have hread : observe s.variant f { s.run with events := es } = .fault (.unspecifiedRead f) := by
    have ho' : readField s.variant f { s.run with events := es } = none := ho
    simp [observe, ho']
  rw [step_of_event hd he (takeEvent_read hev)]
  exact perform_of_fault (s := { s with events := es }) hread

end

/-- Settles O55: the read is the event that happens; `readField` says what it gives, and under the invariant a status is
there while `done` is 1 and a value while that status is OK. -/
theorem resultFieldsReadOnlyAfterCompletion : Obligations.ResultFieldsReadOnlyAfterCompletion := by
  intro s f es ⟨henc, hdec⟩ hd he hev
  refine ⟨?_, ?_, ?_, ?_, ?_, ?_, ?_, ?_, ?_⟩ <;> rintro rfl
  · exact step_read hd he hev rfl
  · exact step_read hd he hev rfl
  · exact step_read hd he hev rfl
  · intro hdone
    obtain ⟨st, hst, hread⟩ := readField_encStatus henc hdone
    exact ⟨st, hst, step_read hd he hev hread⟩
  · intro hdone
    exact step_read_fault hd he hev (by simp [readField, hdone])
  · intro hdone
    obtain ⟨st, hst, hread⟩ := readField_decStatus hdec hdone
    exact ⟨st, hst, step_read hd he hev hread⟩
  · intro hdone
    exact step_read_fault hd he hev (by simp [readField, hdone])
  · intro hdone hok
    obtain ⟨v, hv, hread⟩ := readField_decValue hdec hdone hok
    exact ⟨v, hv, step_read hd he hev hread⟩
  · intro hnone
    exact step_read_fault hd he hev (by simpa [readField] using fun h1 h2 => absurd ⟨h1, h2⟩ hnone)

end Sys2Proof.Machine

/-! Two runs of one operation from states that an earlier operation, the other unit or a reset may have left different (R11):
the transfers keep the two in agreement on the fields that have a meaning. The statements O57 and O58. -/

namespace Sys2Proof.Machine

open Sys2Proof

variable {x : Variant}

/-! ### ENCODE -/

/-- `s₁` and `s₂` agree on all an ENCODE in flight depends on: ENC and the sink's answers (R11). -/
structure EncAgree (s₁ s₂ : RunState) : Prop where
  enc : s₁.enc = s₂.enc
  sinkAnswers : s₁.sinkAnswers = s₂.sinkAnswers

/-- From `s₁` to `t₁` and from `s₂` to `t₂` the sink accepts the same bytes, and the ends agree. -/
structure EncAlike (s₁ s₂ t₁ t₂ : RunState) (written : List Byte) : Prop where
  agree : EncAgree t₁ t₂
  sink₁ : t₁.sink = s₁.sink ++ written
  sink₂ : t₂.sink = s₂.sink ++ written

theorem EncAlike.refl {s₁ s₂ : RunState} (h : EncAgree s₁ s₂) : EncAlike s₁ s₂ s₁ s₂ [] :=
  ⟨h, by simp, by simp⟩

theorem EncAlike.trans {s₁ s₂ t₁ t₂ u₁ u₂ : RunState} {w w' : List Byte} (h : EncAlike s₁ s₂ t₁ t₂ w)
    (k : EncAlike t₁ t₂ u₁ u₂ w') : EncAlike s₁ s₂ u₁ u₂ (w ++ w') :=
  ⟨k.agree, by rw [k.sink₁, h.sink₁, List.append_assoc], by rw [k.sink₂, h.sink₂, List.append_assoc]⟩

theorem encStart_agree (v : Word) {s₁ s₂ : RunState} (h : s₁.sinkAnswers = s₂.sinkAnswers) :
    EncAgree (encStart v s₁) (encStart v s₂) :=
  ⟨rfl, h⟩

theorem encTransfer_alike {r : SinkAnswer} {s₁ s₂ t₁ : RunState} (ha : EncAgree s₁ s₂)
    (h : encTransfer x r s₁ = .next t₁) : ∃ t₂ w, encTransfer x r s₂ = .next t₂ ∧ EncAlike s₁ s₂ t₁ t₂ w := by
  obtain ⟨b, hb, hcases⟩ := encTransfer_next h
  have hb₂ : packerByte x s₂ = some b := by rw [packerByte, ← ha.enc]; exact hb
  obtain ⟨rfl, rfl⟩ | ⟨rfl, hlast, rfl⟩ | ⟨rfl, hlast, rfl⟩ := hcases
  · exact ⟨encComplete .ioError (sinkWrite b .err s₂), [], by simp [encTransfer, hb₂],
      ⟨by simp [ha.enc], by simp [ha.sinkAnswers]⟩, by simp, by simp⟩
  · rw [ha.enc] at hlast
    exact ⟨encComplete .ok (sinkWrite b .ok s₂), [b], by simp [encTransfer, hb₂, hlast],
      ⟨by simp [ha.enc], by simp [ha.sinkAnswers]⟩, by simp, by simp⟩
  · rw [ha.enc] at hlast
    exact ⟨{ sinkWrite b .ok s₂ with enc := { s₂.enc with idx := s₂.enc.idx + 1#4 } }, [b],
      by simp [encTransfer, hb₂, hlast], ⟨by simp [ha.enc], by simp [ha.sinkAnswers]⟩, by simp, by simp⟩

theorem encRun_alike (rs : List SinkAnswer) {s₁ s₂ t₁ : RunState} (ha : EncAgree s₁ s₂)
    (h : encRun x rs s₁ = .next t₁) : ∃ t₂ w, encRun x rs s₂ = .next t₂ ∧ EncAlike s₁ s₂ t₁ t₂ w := by
  induction rs generalizing s₁ s₂ with
  | nil => cases h; exact ⟨s₂, [], rfl, .refl ha⟩
  | cons r rs ih =>
    cases hp : s₁.enc.phase with
    | idle =>
      rw [encRun_idle _ hp] at h
      cases h
      exact ⟨s₂, [], encRun_idle _ (ha.enc ▸ hp), .refl ha⟩
    | emit =>
      rw [encRun_cons r rs hp] at h
      obtain ⟨u₁, hu₁, hrest₁⟩ := andThen_eq_next h
      obtain ⟨u₂, w, hu₂, hfirst⟩ := encTransfer_alike ha hu₁
      obtain ⟨t₂, w', hrest₂, hrest⟩ := ih hfirst.agree hrest₁
      refine ⟨t₂, w ++ w', ?_, hfirst.trans hrest⟩
      rw [encRun_cons r rs (ha.enc ▸ hp), hu₂, andThen_next, hrest₂]

/-- Settles O57: the start makes the two ENCs equal, and the transfers keep them so. -/
theorem encodeDependsOnNoEarlierState : Obligations.EncodeDependsOnNoEarlierState := by
  intro s₁ s₂ t₁ v hv hanswers hidle₁ hidle₂ h
  rw [exec_encode] at h
  obtain ⟨hrun₁, -⟩ := perform_eq_next h
  rw [encCommand_idle v hidle₁, hv, hanswers] at hrun₁
  obtain ⟨t₂, w, hrun₂, hagree, hsink₁, hsink₂⟩ := encRun_alike _ (encStart_agree v hanswers) hrun₁
  rw [← encCommand_idle v hidle₂] at hrun₂
  have henc := hagree.enc
  exact ⟨_, w, (exec_encode v s₂).trans (perform_of_next hrun₂), hsink₁, hsink₂, hagree.sinkAnswers,
    by rw [henc], by rw [henc], by rw [henc], by rw [henc], by rw [henc]⟩

/-! ### DECODE -/

/-- `d₁` and `d₂` agree on the fields of DEC that have a meaning; those of a value in progress have one in PAYLOAD
alone (R13). -/
structure DecFieldsAgree (d₁ d₂ : Dec) : Prop where
  phase : d₁.phase = d₂.phase
  done : d₁.done = d₂.done
  value : d₁.value = d₂.value
  status : d₁.status = d₂.status
  payload : d₁.phase = .payload → d₁.lead = d₂.lead ∧ d₁.acc = d₂.acc ∧ d₁.rem = d₂.rem

/-- From `s₁` to `t₁` and from `s₂` to `t₂` the source delivers as many bytes, and the ends agree. -/
structure DecAlike (s₁ s₂ t₁ t₂ : RunState) (consumed : Nat) : Prop where
  dec : DecFieldsAgree t₁.dec t₂.dec
  source : t₁.source = t₂.source
  srcPos₁ : t₁.srcPos = s₁.srcPos + consumed
  srcPos₂ : t₂.srcPos = s₂.srcPos + consumed

theorem DecAlike.refl {s₁ s₂ : RunState} (hd : DecFieldsAgree s₁.dec s₂.dec) (hs : s₁.source = s₂.source) :
    DecAlike s₁ s₂ s₁ s₂ 0 :=
  ⟨hd, hs, rfl, rfl⟩

theorem DecAlike.trans {s₁ s₂ t₁ t₂ u₁ u₂ : RunState} {c c' : Nat} (h : DecAlike s₁ s₂ t₁ t₂ c)
    (k : DecAlike t₁ t₂ u₁ u₂ c') : DecAlike s₁ s₂ u₁ u₂ (c + c') :=
  ⟨k.dec, k.source, by rw [k.srcPos₁, h.srcPos₁, Nat.add_assoc], by rw [k.srcPos₂, h.srcPos₂, Nat.add_assoc]⟩

/-- The number of bytes an answer of the source consumes (R33). -/
def SrcAnswer.bytes : SrcAnswer → Nat
  | .byte _ => 1
  | .endOfStream => 0
  | .err => 0

theorem srcRead_alike (r : SrcAnswer) {s₁ s₂ : RunState} (hd : DecFieldsAgree s₁.dec s₂.dec)
    (hs : s₁.source = s₂.source) : DecAlike s₁ s₂ (srcRead r s₁) (srcRead r s₂) r.bytes := by
  refine ⟨by simpa using hd, by simp [hs], ?_, ?_⟩ <;> cases r <;> rfl

theorem decCompleteOk_alike (v : Word) {s₁ s₂ : RunState} (hs : s₁.source = s₂.source) :
    DecAlike s₁ s₂ (decCompleteOk v s₁) (decCompleteOk v s₂) 0 :=
  ⟨⟨rfl, rfl, rfl, rfl, nofun⟩, hs, rfl, rfl⟩

theorem decCompleteError_alike (st : Status) {s₁ s₂ : RunState} (hs : s₁.source = s₂.source) :
    DecAlike s₁ s₂ (decCompleteError st s₁) (decCompleteError st s₂) 0 :=
  ⟨⟨rfl, rfl, rfl, rfl, nofun⟩, hs, rfl, rfl⟩

theorem leadByte_alike (L : Byte) {s₁ s₂ : RunState} (hd : DecFieldsAgree s₁.dec s₂.dec) (hs : s₁.source = s₂.source) :
    DecAlike s₁ s₂ (leadByte x L s₁) (leadByte x L s₂) 0 := by
  unfold leadByte
  cases classify x L with
  | direct => exact decCompleteOk_alike _ hs
  | sentinel => exact decCompleteError_alike _ hs
  | multi k n acc0 => exact ⟨⟨rfl, hd.done, hd.value, hd.status, fun _ => ⟨rfl, rfl, rfl⟩⟩, hs, rfl, rfl⟩

theorem payloadByte_alike {b : Byte} {s₁ s₂ t₁ : RunState} (hp : s₁.dec.phase = .payload)
    (hd : DecFieldsAgree s₁.dec s₂.dec) (hs : s₁.source = s₂.source) (h : payloadByte x b s₁ = .next t₁) :
    ∃ t₂, payloadByte x b s₂ = .next t₂ ∧ DecAlike s₁ s₂ t₁ t₂ 0 := by
  obtain ⟨hlead, hacc, hrem⟩ := hd.payload hp
  obtain ⟨h1, h8, hcases⟩ := payloadByte_next h
  have hrange : ¬(s₂.dec.rem.toNat = 0 ∨ 8 < s₂.dec.rem.toNat) := by rw [← hrem]; omega
  simp only [payloadByte, hrange, if_false]
  obtain ⟨hlast, rfl⟩ | ⟨hlast, rfl⟩ := hcases <;> rw [hrem] at hlast
  · rw [if_pos hlast, hlead, hacc]
    exact ⟨_, rfl, decCompleteOk_alike _ hs⟩
  · rw [if_neg hlast]
    exact ⟨_, rfl, ⟨hd.phase, hd.done, hd.value, hd.status, fun _ => ⟨hlead, by simp [hacc], by simp [hrem]⟩⟩,
      hs, rfl, rfl⟩

theorem decTransfer_alike {r : SrcAnswer} {s₁ s₂ t₁ : RunState} (hd : DecFieldsAgree s₁.dec s₂.dec)
    (hs : s₁.source = s₂.source) (h : decTransfer x r s₁ = .next t₁) :
    ∃ t₂ c, decTransfer x r s₂ = .next t₂ ∧ DecAlike s₁ s₂ t₁ t₂ c := by
  have hread := srcRead_alike r hd hs
  obtain ⟨hp, rfl⟩ | ⟨hp, rfl, rfl⟩ | ⟨hp, rfl, rfl⟩ | ⟨b, hp, rfl, rfl⟩ | ⟨b, hp, rfl, hpay⟩ := decTransfer_next h
  · exact ⟨s₂, 0, decTransfer_idle r (hd.phase ▸ hp), .refl hd hs⟩
  · exact ⟨_, _, decTransfer_end (hd.phase ▸ hp), hread.trans (decCompleteError_alike _ hread.source)⟩
  · exact ⟨_, _, decTransfer_err (hd.phase ▸ hp), hread.trans (decCompleteError_alike _ hread.source)⟩
  · exact ⟨_, _, decTransfer_lead b (hd.phase ▸ hp), hread.trans (leadByte_alike b hread.dec hread.source)⟩
  · obtain ⟨t₂, ht₂, hrest⟩ := payloadByte_alike (s₁ := srcRead (.byte b) s₁) hp hread.dec hread.source hpay
    exact ⟨t₂, _, (decTransfer_payload b (hd.phase ▸ hp)).trans ht₂, hread.trans hrest⟩

theorem decRun_alike (rs : List SrcAnswer) {s₁ s₂ t₁ : RunState} (hd : DecFieldsAgree s₁.dec s₂.dec)
    (hs : s₁.source = s₂.source) (h : decRun x rs s₁ = .next t₁) :
    ∃ t₂ c, decRun x rs s₂ = .next t₂ ∧ DecAlike s₁ s₂ t₁ t₂ c := by
  induction rs generalizing s₁ s₂ with
  | nil => cases h; exact ⟨s₂, 0, rfl, .refl hd hs⟩
  | cons r rs ih =>
    by_cases hp : s₁.dec.phase = .idle
    · rw [decRun_idle _ hp] at h
      cases h
      exact ⟨s₂, 0, decRun_idle _ (hd.phase ▸ hp), .refl hd hs⟩
    · rw [decRun_cons r rs hp] at h
      obtain ⟨u₁, hu₁, hrest₁⟩ := andThen_eq_next h
      obtain ⟨u₂, c, hu₂, hfirst⟩ := decTransfer_alike hd hs hu₁
      obtain ⟨t₂, c', hrest₂, hrest⟩ := ih hfirst.dec hfirst.source hrest₁
      refine ⟨t₂, c + c', ?_, hfirst.trans hrest⟩
      rw [decRun_cons r rs (hd.phase ▸ hp), hu₂, andThen_next, hrest₂]

theorem decStart_agree (s₁ s₂ : RunState) : DecFieldsAgree (decStart s₁).dec (decStart s₂).dec :=
  ⟨rfl, rfl, rfl, rfl, nofun⟩

/-- Settles O58: the start makes the two DECs agree where LEAD reads, and the transfers keep them so. -/
theorem decodeDependsOnNoEarlierState : Obligations.DecodeDependsOnNoEarlierState := by
  intro s₁ s₂ t₁ hv hsource hidle₁ hidle₂ h
  rw [exec_decode] at h
  obtain ⟨hrun₁, -⟩ := perform_eq_next h
  rw [decCommand_idle hidle₁, hv, hsource] at hrun₁
  obtain ⟨t₂, c, hrun₂, hdec, hsrc, hpos₁, hpos₂⟩ := decRun_alike _ (decStart_agree s₁.run s₂.run) hsource hrun₁
  rw [← decCommand_idle hidle₂] at hrun₂
  exact ⟨_, c, (exec_decode s₂).trans (perform_of_next hrun₂), hpos₁, hpos₂, hsrc, hdec.phase, hdec.done, hdec.value,
    hdec.status, hdec.payload⟩

end Sys2Proof.Machine

/-! What stands on a stream afterwards: an encoding as the pure functions read it, the bytes an ENCODE has stored, the frames
of the commands and of every step. The statements O30, O36 and O50. -/

namespace Sys2Proof.Machine

open Sys2Proof

variable {x : Variant}

/-! ### The length of an encoding (R96) -/

theorem encodeValue_length (x : Variant) (v : Word) : (encodeValue x v).length = encodedLength x v := by
  cases x with
  | a =>
    simp only [encodeValue, encodedLength]
    fun_cases encodeA v
    case case1 n h => simp [n, h]
    case case2 n h => simp [n, h, Nat.add_comm]
  | b =>
    simp only [encodeValue, encodedLength]
    fun_cases encodeB v
    case case1 n h0 => simp [n, h0]
    case case2 n h0 h1 => simp [n, h0, h1]
    case case3 n h0 h1 h2 => simp [n, h0, h1, h2]
    case case4 n h0 h1 h2 => simp [n, h0, h1, h2, Nat.add_comm]

/-! ### What an ENCODE stores (R97 to R99) -/

/-- A transfer of the packer stores nothing, or the byte presented; if more is to come, the bytes to come are those behind
it: the index is below the length of the encoding, at most 9, so its 4 bits do not wrap. -/
theorem encTransfer_stores {r : SinkAnswer} {s t : RunState} (h : encTransfer x r s = .next t) :
    ∃ b later, (encodeValue x s.enc.value).drop s.enc.idx.toNat = b :: later ∧
      ((t.enc.phase = .idle ∧ (t.sink = s.sink ∨ t.sink = s.sink ++ [b])) ∨
       (t.sink = s.sink ++ [b] ∧ (encodeValue x t.enc.value).drop t.enc.idx.toNat = later)) := by
  obtain ⟨b, hb, hcases⟩ := encTransfer_next h
  obtain ⟨hlt, hget⟩ := List.getElem?_eq_some_iff.1 hb
  refine ⟨b, _, by rw [List.drop_eq_getElem_cons hlt, hget], ?_⟩
  obtain ⟨-, rfl⟩ | ⟨-, -, rfl⟩ | ⟨-, -, rfl⟩ := hcases
  · exact .inl ⟨rfl, .inl rfl⟩
  · exact .inl ⟨rfl, .inr rfl⟩
  · have hlen := (encodeValue_length_bounds x s.enc.value).2
    have hidx : (s.enc.idx + 1#4).toNat = s.enc.idx.toNat + 1 := by bv_omega
    exact .inr ⟨rfl, by simp only [hidx]⟩

/-- A run of ENC's transfers stores an initial part of the bytes to come. -/
theorem encRun_stores (rs : List SinkAnswer) {s t : RunState} (h : encRun x rs s = .next t) :
    ∃ w, w <+: (encodeValue x s.enc.value).drop s.enc.idx.toNat ∧ t.sink = s.sink ++ w := by
  induction rs generalizing s with
  | nil => cases h; exact ⟨[], List.nil_prefix, by simp⟩
  | cons r rs ih =>
    cases hp : s.enc.phase with
    | idle =>
      rw [encRun_idle _ hp] at h
      cases h
      exact ⟨[], List.nil_prefix, by simp⟩
    | emit =>
      rw [encRun_cons r rs hp] at h
      obtain ⟨u, hu, hrest⟩ := andThen_eq_next h
      obtain ⟨b, later, hcome, ⟨hidle, hsink⟩ | ⟨hsink, hlater⟩⟩ := encTransfer_stores hu
      · rw [encRun_idle _ hidle] at hrest
        cases hrest
        obtain hsink | hsink := hsink
        · exact ⟨[], List.nil_prefix, by simp [hsink]⟩
        · exact ⟨[b], by simp [hcome], hsink⟩
      · obtain ⟨w, hw, ht⟩ := ih hrest
        refine ⟨b :: w, ?_, by simp [ht, hsink]⟩
        rw [hcome, ← hlater]
        exact (List.prefix_cons_inj b).2 hw

/-- ENCODE stores an initial part of the encoding; a busy ENC stores nothing. -/
theorem encCommand_stores {v : Word} {s t : RunState} (h : encCommand x v s = .next t) :
    ∃ w, w <+: encodeValue x v ∧ t.sink = s.sink ++ w ∧ (s.enc.phase = .emit → w = []) := by
  cases hp : s.enc.phase with
  | idle =>
    rw [encCommand_idle v hp] at h
    obtain ⟨w, hw, hsink⟩ := encRun_stores _ h
    exact ⟨w, hw, hsink, nofun⟩
  | emit =>
    rw [encCommand_busy v hp] at h
    cases h
    exact ⟨[], List.nil_prefix, by simp, fun _ => rfl⟩

/-- Appending to the sink leaves the positions before `sink_pos` and those behind the bytes appended. -/
theorem sinkByte_outside {s t : RunState} {w : List Byte} {pos : Nat} (hsink : t.sink = s.sink ++ w)
    (h : pos < s.sinkPos ∨ s.sinkPos + w.length ≤ pos) : t.sinkByte pos = s.sinkByte pos := by
  simp only [RunState.sinkByte, RunState.sinkPos, hsink] at h ⊢
  obtain h | h := h
  · exact List.getElem?_append_left h
  · rw [List.getElem?_eq_none (by simpa using h), List.getElem?_eq_none (by omega)]

theorem sinkByte_appended {s t : RunState} {w : List Byte} (hsink : t.sink = s.sink ++ w) (i : Nat) :
    t.sinkByte (s.sinkPos + i) = w[i]? := by
  rw [RunState.sinkByte, RunState.sinkPos, hsink, List.getElem?_append_right (Nat.le_add_right _ _),
    Nat.add_sub_cancel_left]

/-- Settles O30: the frame of ENC, and the bytes stored are an initial part of the encoding. -/
theorem encodeFrame : Obligations.EncodeFrame := by
  intro s t v h
  obtain ⟨hrun, hv⟩ := perform_eq_next (exec_encode v s ▸ h)
  have hf := encCommand_frame hrun
  obtain ⟨w, hw, hsink, hbusy⟩ := encCommand_stores hrun
  have hlen : w.length ≤ encodedLength s.variant v := encodeValue_length s.variant v ▸ hw.length_le
  refine ⟨hv, hf.dec, hf.source, hf.srcPos, hf.events, hf.observed, hf.freeCount, fun pos hpos => ?_,
    fun i b hb => ?_, fun hp => by simpa [hbusy hp] using hsink⟩
  · exact sinkByte_outside hsink (hpos.imp_right (by omega))
  · rw [sinkByte_appended hsink] at hb
    obtain ⟨hlt, rfl⟩ := List.getElem?_eq_some_iff.1 hb
    exact List.prefix_iff_getElem?.1 hw i hlt

/-! ### What DECODE and the forms leave (R30, R110) -/

theorem exec_decFrame {s t : State} {i : Instr} (hi : i = .decode ∨ i.isForm = true) (h : exec i s = .next t) :
    DecFrame s.run t.run ∧ t.variant = s.variant := by
  obtain rfl | hform := hi
  · obtain ⟨hrun, hv⟩ := perform_eq_next (exec_decode s ▸ h)
    exact ⟨decCommand_frame hrun, hv⟩
  · obtain ⟨hrun, hv⟩ := perform_eq_next (exec_form hform s ▸ h)
    exact ⟨deliver_frame _ hrun, hv⟩

/-- Settles O36: DECODE and every form are operations of DEC, whose frame holds ENC, the sink and the record. -/
theorem decodeAndFormsFrame : Obligations.DecodeAndFormsFrame := by
  intro s t i hi h
  obtain ⟨hf, hv⟩ := exec_decFrame hi h
  exact ⟨hv, hf.enc, fun pos => by simp only [RunState.sinkByte, hf.sink], hf.sink, hf.sinkAnswers, hf.events,
    hf.observed, hf.freeCount⟩

/-! ### What has moved stays moved (R39, R40, R186) -/

/-- From `s` to `t` the sink keeps its bytes at their positions and the source takes none back. -/
def StreamsKept (s t : RunState) : Prop := s.sink <+: t.sink ∧ s.srcPos ≤ t.srcPos

theorem StreamsKept.refl (s : RunState) : StreamsKept s s := ⟨List.prefix_rfl, le_rfl⟩

theorem EncFrame.streamsKept {s t : RunState} (h : EncFrame s t) : StreamsKept s t := ⟨h.sink, h.srcPos.ge⟩

theorem DecFrame.streamsKept {s t : RunState} (h : DecFrame s t) : StreamsKept s t := ⟨h.sink ▸ List.prefix_rfl, h.srcPos⟩

theorem sinkAfterReset_prefix (x : Variant) (s : RunState) : s.sink <+: sinkAfterReset x s := by
  fun_cases sinkAfterReset x s
  case case1 => exact List.prefix_append _ _
  all_goals exact List.prefix_rfl

theorem srcPos_le_sourceAfterReset (b : Option Byte) (s : RunState) : s.srcPos ≤ (sourceAfterReset b s).2 := by
  fun_cases sourceAfterReset b s
  case case2 => exact Nat.le_succ _
  all_goals exact le_rfl

theorem resetCore_streamsKept (x : Variant) (b : Option Byte) (s : RunState) : StreamsKept s (resetCore x b s) :=
  ⟨sinkAfterReset_prefix x s, srcPos_le_sourceAfterReset b s⟩

theorem happen_streamsKept {e : Event} {s t : RunState} (h : happen x e s = .next t) : StreamsKept s t := by
  cases e with
  | encStart v => exact (encCommand_frame h).streamsKept
  | decStart => exact (decCommand_frame h).streamsKept
  | sinkReady answers => cases h; exact .refl s
  | sourceReady answers => cases h; exact .refl s
  | reset b => cases h; exact resetCore_streamsKept x b s
  | read f =>
    obtain ⟨o, -, rfl⟩ := observe_next h
    exact .refl s

/-- Settles O50: the frames of the two units say it of their moves, and reset keeps what the ports have moved. -/
theorem streamsAreNeverRolledBack : Obligations.StreamsAreNeverRolledBack := by
  intro s t h
  cases (step_moves h).1 with
  | dec _ rs hrun => exact (decRun_frame rs hrun).streamsKept
  | enc _ _ rs hrun => exact (encRun_frame rs hrun).streamsKept
  | wait _ _ _ hst => exact hst ▸ StreamsKept.refl s.run
  | event _ _ e es _ hrun => exact happen_streamsKept (s := { s.run with events := es }) hrun

end Sys2Proof.Machine

/-! Lists of commands of one unit, run one after another on a stream that answers every transfer: the whole result of an
ENCODE and of a DECODE of an encoding, then the induction on the list. The statements O60 and O59. -/

namespace Sys2Proof.Machine

open Sys2Proof

variable {x : Variant}

/-! ### Runs of steps and of commands -/

/-- A run of `m + n` steps is a run of `m` and then a run of `n`. -/
theorem runSteps_add {m n : Nat} {s t : State} (h : runSteps m s = .next t) : runSteps (m + n) s = runSteps n t := by
  induction m generalizing s with
  | zero => cases h; rw [Nat.zero_add]
  | succ m ih =>
    obtain ⟨u, hu, hrest⟩ := andThen_eq_next h
    rw [Nat.succ_add, runSteps_succ hu, ih hrest]

/-- The unit whose command completed. `completionsOf_eq` ties it to the completions of a unit. -/
def Completion.unit : Completion → CoreUnit
  | .enc _ => .enc
  | .dec _ _ => .dec

@[simp] theorem Completion.unit_enc (st : Status) : (Completion.enc st).unit = .enc := rfl
@[simp] theorem Completion.unit_dec (st : Status) (v : Option Word) : (Completion.dec st v).unit = .dec := rfl

theorem completionsOf_eq (u : CoreUnit) (results : List Completion) :
    completionsOf u results = results.filter fun c => u = c.unit := by
  unfold completionsOf
  congr 1
  funext c
  cases c <;> rfl

/-- When every event is a command of `w` and every completion one of `w`, as many as there are events, the run is over
(R200). -/
theorem runOver_of_one_unit {w : CoreUnit} {s t : State} {new : List Completion} (henc : t.enc.phase = .idle)
    (hdec : t.dec.phase = .idle) (hev : t.events = []) (hres : t.results = s.results ++ new)
    (hcommands : ∀ e ∈ s.events, e.instr.isSome = true ∧ e.unit = some w) (hnew : ∀ c ∈ new, c.unit = w)
    (hlen : new.length = s.events.length) : RunOver s t := by
  refine ⟨henc, hdec, new, hres, fun u => ⟨by rw [hev]; rfl, ?_⟩⟩
  rw [completionsOf_eq, commandsOf]
  by_cases hu : u = w
  · rw [List.filter_eq_self.2 fun c hc => by simp [hnew c hc, hu],
      List.filter_eq_self.2 fun e he => by simp [hcommands e he, hu], hlen]
  · rw [List.filter_eq_nil_iff.2 fun c hc => by simp [hnew c hc, hu],
      List.filter_eq_nil_iff.2 fun e he => by simp [hcommands e he, Ne.symm hu]]
    rfl

/-! ### ENCODE on a sink that accepts (R45, R99) -/

/-- The byte that is accepted last completes the operation (R97, R99). -/
theorem encTransfer_last {s : RunState} (hk : s.enc.idx.toNat + 1 = (encodeValue x s.enc.value).length) :
    encTransfer x .ok s = .next { s with
      sink := s.sink ++ (encodeValue x s.enc.value).drop s.enc.idx.toNat
      sinkAnswers := s.sinkAnswers.tail
      enc := { s.enc with phase := .idle, done := true, status := some .ok }
      results := s.results ++ [.enc .ok] } := by
  have hlt : s.enc.idx.toNat < (encodeValue x s.enc.value).length := by omega
  have hbyte : packerByte x s = some (encodeValue x s.enc.value)[s.enc.idx.toNat] := List.getElem?_eq_getElem hlt
  have hpart : (encodeValue x s.enc.value).drop s.enc.idx.toNat = [(encodeValue x s.enc.value)[s.enc.idx.toNat]] := by
    rw [List.drop_eq_getElem_cons hlt, hk, List.drop_length]
  simp [encTransfer, hbyte, hk, hpart, sinkWrite, encComplete]

/-- An ENCODE whose sink answers `Ok` as often as there are bytes appends the encoding and completes OK (R80, R99). -/
theorem encCommand_writes {v : Word} {rest : List SinkAnswer} {s : RunState} (hidle : s.enc.phase = .idle)
    (hanswers : s.sinkAnswers = List.replicate (encodeValue x v).length .ok ++ rest) :
    encCommand x v s = .next { s with
      sink := s.sink ++ encodeValue x v
      sinkAnswers := rest
      enc := { phase := .idle, value := v, done := true, status := some .ok
               idx := BitVec.ofNat 4 ((encodeValue x v).length - 1) }
      results := s.results ++ [.enc .ok] } := by
  obtain ⟨h1, h9⟩ := encodeValue_length_bounds x v
  obtain ⟨k, hk⟩ : ∃ k, (encodeValue x v).length = k + 1 := ⟨_, (Nat.sub_add_cancel h1).symm⟩
  have hidx : (BitVec.ofNat 4 k).toNat = k := by simp; omega
  have hlast : (afterAccepted x k (encStart v s)).enc.idx.toNat + 1 =
      (encodeValue x (afterAccepted x k (encStart v s)).enc.value).length := by
    simp [afterAccepted, hk]; omega
  rw [encCommand_idle v hidle, hanswers, hk, List.replicate_succ', List.append_assoc,
    encRun_accepted k _ rfl (by simp [hk]), List.singleton_append, encRun_cons _ _ rfl, encTransfer_last hlast,
    andThen_next, encRun_idle _ rfl]
  simp [afterAccepted, hk, hanswers, List.replicate_succ', hidx]

/-- From `s` to `t`, ENC being IDLE in `t`, ENCODE commands have stored `bytes` and completed with `new`; `VARIANT`, DEC and
the source are unchanged. -/
structure Encoded (s t : State) (bytes : List Byte) (new : List Completion) : Prop where
  idle : t.enc.phase = .idle
  variant : t.variant = s.variant
  dec : t.dec = s.dec
  source : t.source = s.source
  sink : t.sink = s.sink ++ bytes
  results : t.results = s.results ++ new

theorem Encoded.refl {s : State} (h : s.enc.phase = .idle) : Encoded s s [] [] :=
  ⟨h, rfl, rfl, rfl, by simp, by simp⟩

theorem Encoded.trans {s t u : State} {bs bs' : List Byte} {new new' : List Completion} (h : Encoded s t bs new)
    (k : Encoded t u bs' new') : Encoded s u (bs ++ bs') (new ++ new') :=
  ⟨k.idle, k.variant.trans h.variant, k.dec.trans h.dec, k.source.trans h.source,
    by rw [k.sink, h.sink, List.append_assoc], by rw [k.results, h.results, List.append_assoc]⟩

/-- With both units IDLE the step runs the ENCODE offered, to completion (log 7, log 10). -/
theorem step_encodes {s : State} {v : Word} {es : List Event} {rest : List SinkAnswer} (hdec : s.dec.phase = .idle)
    (henc : s.enc.phase = .idle) (hev : s.events = .encStart v :: es)
    (hanswers : s.sinkAnswers = List.replicate (encodeValue s.variant v).length .ok ++ rest) :
    ∃ t, step s = .next t ∧ t.events = es ∧ t.sinkAnswers = rest ∧
      Encoded s t (encodeValue s.variant v) [.enc .ok] := by
  have hstep := step_of_event (s := s) (by simp [decReady, hdec]) (by simp [encReady, henc])
    (takeEvent_encStart henc hev)
  have hrun := encCommand_writes (x := s.variant) (s := { s.run with events := es }) henc hanswers
  exact ⟨_, hstep.trans (perform_of_next (s := { s with events := es }) hrun), rfl, rfl, rfl, rfl, rfl, rfl, rfl, rfl⟩

theorem runSteps_encodes (vs : List Word) {s : State} {rest : List SinkAnswer} (hdec : s.dec.phase = .idle)
    (henc : s.enc.phase = .idle) (hev : s.events = vs.map .encStart)
    (hanswers : s.sinkAnswers = List.replicate (vs.flatMap fun v => encodeValue s.variant v).length .ok ++ rest) :
    ∃ t, runSteps vs.length s = .next t ∧ t.events = [] ∧ t.sinkAnswers = rest ∧
      Encoded s t (vs.flatMap fun v => encodeValue s.variant v) (vs.map fun _ => .enc .ok) := by
  induction vs generalizing s with
  | nil => exact ⟨s, rfl, hev, by simpa using hanswers, .refl henc⟩
  | cons v vs ih =>
    rw [List.flatMap_cons, List.length_append, List.replicate_add, List.append_assoc] at hanswers
    obtain ⟨u, hu, huev, huanswers, hfirst⟩ := step_encodes hdec henc hev hanswers
    rw [← hfirst.variant] at huanswers
    obtain ⟨t, ht, htev, htanswers, hrest⟩ := ih (hfirst.dec ▸ hdec) hfirst.idle huev huanswers
    rw [hfirst.variant] at hrest
    exact ⟨t, (runSteps_succ hu).trans ht, htev, htanswers, hfirst.trans hrest⟩

/-- Settles O60: by induction on the values, each command completing in the step that takes it. -/
theorem encodedValuesAreConcatenated : Obligations.EncodedValuesAreConcatenated := by
  intro s vs rest hdec henc hev hanswers
  obtain ⟨t, ht, htev, htanswers, hdone⟩ := runSteps_encodes vs hdec henc hev hanswers
  refine ⟨t, ht, hdone.sink, htanswers, hdone.results, hdone.dec, hdone.source, htev, ?_⟩
  refine runOver_of_one_unit (w := .enc) hdone.idle (hdone.dec ▸ hdec) htev hdone.results ?_ ?_ (by simp [hev])
  · simp [hev, Event.instr, Event.unit]
  · simp

/-! ### An encoding as DEC reads it (R113, R114, R123) -/

/-- `bs` is an encoded value that DEC reads as `v`: one byte of the direct class, or a leading byte of a multi-byte class with
its whole payload (R52, R112, R123). -/
inductive ReadsAs (x : Variant) : List Byte → Word → Prop where
  | direct (L : Byte) (v : Word) (hc : classify x L = .direct) (hv : L.setWidth 64 = v) : ReadsAs x [L] v
  | multi (L : Byte) (p : List Byte) (v : Word) (k : MultiKind) (acc0 : Nat)
      (hc : classify x L = .multi k p.length acc0)
      (hv : base x L + (acc0 * 256 ^ p.length + beval p) = v.toNat) : ReadsAs x (L :: p) v

/-- The general form of either variant: the leading byte announces the width, and the width is minimal (R85, R93). -/
theorem generalForm_readsAs {v : Word} (hc : classify x (BitVec.ofNat 8 (0xf6 + bewidth v.toNat)) =
      .multi .gen (bewidth v.toNat) 0) (hb : base x (BitVec.ofNat 8 (0xf6 + bewidth v.toNat)) = 0)
    (hv : v.toNat < 256 ^ bewidth v.toNat) :
    ReadsAs x (BitVec.ofNat 8 (0xf6 + bewidth v.toNat) :: be v.toNat (bewidth v.toNat)) v :=
  .multi _ _ _ .gen 0 (by rw [be_length, hc]) (by rw [hb, beval_be_of_lt hv]; simp)

theorem setWidth_ofNat_toNat {v : Word} (h : v.toNat < 2 ^ 8) : (BitVec.ofNat 8 v.toNat).setWidth 64 = v := by
  apply BitVec.eq_of_toNat_eq
  rw [BitVec.toNat_setWidth, BitVec.toNat_ofNat]
  omega

theorem encodeA_readsAs (v : Word) : ReadsAs .a (encodeA v) v := by
  have hlt := v.isLt
  fun_cases encodeA v
  case case1 n h => exact .direct _ _ (by simp [classify, classifyA]; omega) (setWidth_ofNat_toNat (by omega))
  case case2 n h =>
    obtain ⟨h1, h8, -, hv⟩ := bewidth_bounds (v := v.toNat) (by omega) hlt
    have hL : (BitVec.ofNat 8 (0xf6 + bewidth v.toNat)).toNat = 0xf6 + bewidth v.toNat := by simp; omega
    refine generalForm_readsAs ?_ rfl hv
    simp only [classify, classifyA, hL]
    rw [if_neg (by omega), if_pos (by omega), Nat.add_sub_cancel_left]

theorem encodeB_readsAs (v : Word) : ReadsAs .b (encodeB v) v := by
  have hlt := v.isLt
  fun_cases encodeB v
  case case1 n h0 => exact .direct _ _ (by simp [classify, classifyB]; omega) (setWidth_ofNat_toNat (by omega))
  case case2 n h0 h1 =>
    have hL : (BitVec.ofNat 8 (0xf1 + (n - 0xf0) / 256)).toNat = 0xf1 + (n - 0xf0) / 256 := by simp; omega
    refine .multi _ _ _ .t2 ((n - 0xf0) / 256) ?_ ?_
    · simp only [classify, classifyB, hL]
      rw [if_neg (by omega), if_pos (by omega), Nat.add_sub_cancel_left]
      rfl
    · rw [base, hL, if_pos (by omega)]
      simp [beval]
      omega
  case case3 n h0 h1 h2 =>
    refine .multi _ _ _ .t3 0 rfl ?_
    rw [beval_be_of_lt (by omega), be_length, show base .b 0xf8#8 = 0x7f0 from rfl]
    omega
  case case4 n h0 h1 h2 =>
    obtain ⟨-, h8, -, hv⟩ := bewidth_bounds (v := v.toNat) (by omega) hlt
    have h3 : 3 ≤ bewidth v.toNat := by
      by_contra hw
      have hpow : 256 ^ bewidth v.toNat ≤ 256 ^ 2 := Nat.pow_le_pow_right (by decide) (by omega)
      omega
    have hL : (BitVec.ofNat 8 (0xf6 + bewidth v.toNat)).toNat = 0xf6 + bewidth v.toNat := by simp; omega
    refine generalForm_readsAs ?_ ?_ hv
    · simp only [classify, classifyB, hL]
      rw [if_neg (by omega), if_neg (by omega), if_neg (by omega), if_pos (by omega), Nat.add_sub_cancel_left]
    · rw [base, hL, if_neg (by omega), if_neg (by omega)]

theorem encodeValue_readsAs (x : Variant) (v : Word) : ReadsAs x (encodeValue x v) v := by
  cases x with
  | a => exact encodeA_readsAs v
  | b => exact encodeB_readsAs v

/-! ### DECODE on a source that delivers encodings (R44) -/

/-- From `s` to `t`, DEC being IDLE in `t`, DECODE commands have read `bytes` and completed with `new`, and the source
answers `rest` next; ENC and the sink are unchanged. -/
structure Decoded (s t : RunState) (bytes : List Byte) (new : List Completion) (rest : List SrcAnswer) : Prop where
  idle : t.dec.phase = .idle
  enc : t.enc = s.enc
  sink : t.sink = s.sink
  source : t.source = rest
  srcPos : t.srcPos = s.srcPos + bytes.length
  results : t.results = s.results ++ new

theorem Decoded.refl {s : RunState} (h : s.dec.phase = .idle) : Decoded s s [] [] s.source :=
  ⟨h, rfl, rfl, rfl, rfl, by simp⟩

theorem Decoded.trans {s t u : RunState} {bs bs' : List Byte} {new new' : List Completion} {rest rest' : List SrcAnswer}
    (h : Decoded s t bs new rest) (k : Decoded t u bs' new' rest') : Decoded s u (bs ++ bs') (new ++ new') rest' :=
  ⟨k.idle, k.enc.trans h.enc, k.sink.trans h.sink, k.source,
    by rw [k.srcPos, h.srcPos, List.length_append, Nat.add_assoc], by rw [k.results, h.results, List.append_assoc]⟩

/-- A DECODE of an encoded value completes OK with the value and leaves the source just behind it (R43, R44). -/
theorem decCommand_reads {bs : List Byte} {v : Word} {rest : List SrcAnswer} {s : RunState} (hread : ReadsAs x bs v)
    (hidle : s.dec.phase = .idle) (hsource : s.source = bs.map .byte ++ rest) :
    ∃ t, decCommand x s = .next t ∧ Decoded s t bs [.dec .ok (some v)] rest := by
  rw [decCommand_idle hidle, hsource]
  cases hread with
  | direct L v hc hv =>
    refine ⟨_, decRun_direct rest rfl hc, rfl, rfl, rfl, ?_, rfl, ?_⟩
    · simp [afterDirect, hsource]
    · simp [afterDirect, hv]
  | multi L p v k acc0 hc hv =>
    obtain ⟨h1, h8, hacc⟩ := classify_multi_bounds hc
    have hp : p ≠ [] := List.length_pos_iff.1 h1
    have hrun := decRun_multi p.dropLast (p.getLast hp) rest (s := decStart s) rfl hc
      (by rw [List.length_dropLast]; omega) h8 (by omega)
    rw [List.dropLast_concat_getLast hp, hv] at hrun
    refine ⟨_, hrun, rfl, rfl, rfl, ?_, ?_, ?_⟩
    · simp [afterMulti, hsource, Nat.add_comm 1]
    · simp [afterMulti, Nat.add_comm 1]
    · simp [afterMulti]

/-- A DECODE of a source that answers `End` at once completes TRUNCATED and reads nothing (R124). -/
theorem decCommand_truncated {rest : List SrcAnswer} {s : RunState} (hidle : s.dec.phase = .idle)
    (hsource : s.source = .endOfStream :: rest) :
    ∃ t, decCommand x s = .next t ∧ Decoded s t [] [.dec .truncated none] rest ∧ t.dec.status = some .truncated := by
  refine ⟨decCompleteError .truncated (srcRead .endOfStream (decStart s)), ?_, ⟨rfl, rfl, rfl, ?_, rfl, rfl⟩, rfl⟩
  · rw [decCommand_idle hidle, hsource, decRun_cons _ _ (by simp), decTransfer_end (by simp), andThen_next,
      decRun_idle _ rfl]
  · simp [hsource]

/-- With both units IDLE the step runs the DECODE offered, to its end (log 7, log 10). -/
theorem step_decodes {s : State} {m : RunState} {es : List Event} {bs : List Byte} {new : List Completion}
    {rest : List SrcAnswer} (hdec : s.dec.phase = .idle) (henc : s.enc.phase = .idle) (hev : s.events = .decStart :: es)
    (hrun : decCommand s.variant { s.run with events := es } = .next m)
    (hread : Decoded { s.run with events := es } m bs new rest) :
    step s = .next { s with run := m } ∧ m.events = es ∧ Decoded s.run m bs new rest := by
  have hstep := step_of_event (s := s) (by simp [decReady, hdec]) (by simp [encReady, henc])
    (takeEvent_decStart hdec hev)
  exact ⟨hstep.trans (perform_of_next (s := { s with events := es }) hrun), (decCommand_frame hrun).events,
    hread.idle, hread.enc, hread.sink, hread.source, hread.srcPos, hread.results⟩

theorem runSteps_decodes (vs : List Word) {s : State} {es : List Event} {rest : List SrcAnswer}
    (hdec : s.dec.phase = .idle) (henc : s.enc.phase = .idle) (hev : s.events = vs.map (fun _ => .decStart) ++ es)
    (hsource : s.source = (vs.flatMap fun v => encodeValue s.variant v).map .byte ++ rest) :
    ∃ t, runSteps vs.length s = .next t ∧ t.events = es ∧
      Decoded s.run t.run (vs.flatMap fun v => encodeValue s.variant v) (vs.map fun v => .dec .ok (some v)) rest := by
  induction vs generalizing s with
  | nil =>
    obtain rfl : s.source = rest := hsource
    exact ⟨s, rfl, hev, .refl hdec⟩
  | cons v vs ih =>
    rw [List.flatMap_cons, List.map_append, List.append_assoc] at hsource
    obtain ⟨m, hm, hread⟩ := decCommand_reads (encodeValue_readsAs s.variant v)
      (s := { s.run with events := vs.map (fun _ => .decStart) ++ es }) hdec hsource
    obtain ⟨hstep, hmev, hfirst⟩ := step_decodes hdec henc hev hm hread
    obtain ⟨t, ht, htev, hrest⟩ := ih (s := { s with run := m }) hfirst.idle (hfirst.enc ▸ henc) hmev hfirst.source
    exact ⟨t, (runSteps_succ hstep).trans ht, htev, hfirst.trans hrest⟩

/-- DECODE commands alone are over when each has completed. -/
theorem Decoded.runOver {s t : State} {bs : List Byte} {new : List Completion} {rest : List SrcAnswer}
    (h : Decoded s.run t.run bs new rest) (henc : s.enc.phase = .idle) (hev : t.events = [])
    (hcommands : ∀ e ∈ s.events, e = .decStart) (hnew : ∀ c ∈ new, c.unit = .dec)
    (hlen : new.length = s.events.length) : RunOver s t :=
  runOver_of_one_unit (w := .dec) (h.enc ▸ henc) h.idle hev h.results
    (fun e he => hcommands e he ▸ ⟨rfl, rfl⟩) hnew hlen

/-- Settles O59: by induction on the values, each command completing in the step that takes it; the one behind them meets
`End` in phase LEAD. -/
theorem concatenatedValuesDecodeInOrder : Obligations.ConcatenatedValuesDecodeInOrder := by
  intro s vs rest hdec henc hsource
  refine ⟨fun hev => ?_, fun rest' hend hev => ?_⟩
  · obtain ⟨t, ht, htev, hall⟩ := runSteps_decodes vs (es := []) hdec henc (by simpa using hev) hsource
    exact ⟨t, ht, hall.results, hall.source, hall.srcPos, hall.sink, hall.enc, htev,
      hall.runOver henc htev (by simp [hev]) (by simp) (by simp [hev])⟩
  · obtain ⟨u, hu, huev, hall⟩ := runSteps_decodes vs hdec henc hev hsource
    obtain ⟨m, hm, hread, hstatus⟩ := decCommand_truncated (x := u.variant) (s := { u.run with events := [] })
      hall.idle (hall.source.trans hend)
    obtain ⟨hstep, hmev, hone⟩ := step_decodes hall.idle (hall.enc ▸ henc) huev hm hread
    have hboth := hall.trans hone
    refine ⟨{ u with run := m }, ?_, hboth.results.trans (List.append_assoc _ _ _).symm, hboth.source,
      by simpa using hboth.srcPos, hstatus, hmev,
      hboth.runOver henc hmev (by simp [hev, or_imp]) (by simp [or_imp, forall_and]) (by simp [hev])⟩
    rw [runSteps_add hu, runSteps_succ hstep, runSteps_zero]

end Sys2Proof.Machine

/-! The wire format of both variants (30_encoding.md): the rows and their blocks of leading bytes, the decoder against the bytes
of the forms. The statements O4, O3, O1 and O2. -/

namespace Sys2Proof.Machine

open Sys2Proof

/-! ### Blocks of leading bytes (R72) -/

theorem and_ff (L : Byte) : L &&& 0xff#8 = L := BitVec.and_allOnes

/-- Two aligned blocks of bytes whose patterns differ under both masks have no byte in common. -/
theorem blocks_disjoint {L m p m' p' : Byte} (h : L &&& m = p) (hne : p &&& m' ≠ p' &&& m) : L &&& m' ≠ p' := by
  rintro rfl
  subst h
  exact hne (by rw [BitVec.and_assoc, BitVec.and_assoc, BitVec.and_comm m])

theorem le_toNat_of_block {L m p : Byte} (h : L &&& m = p) : p.toNat ≤ L.toNat := by
  rw [← h, BitVec.toNat_and]
  exact Nat.and_le_left

theorem toNat_le_of_block {L m p : Byte} (h : L &&& m = p) : L.toNat ≤ (p ||| ~~~m).toNat := by
  have hbits : p ||| ~~~m = L ||| ~~~m := by
    subst h
    ext i hi
    simp only [BitVec.getElem_or, BitVec.getElem_and, BitVec.getElem_not]
    cases L[i] <;> cases m[i] <;> rfl
  rw [hbits, BitVec.toNat_or]
  exact Nat.left_le_or

/-- A byte no greater than a one-byte form is one (R53, R56). -/
theorem leadLength_one_of_le {x : Variant} {L M : Byte} (hM : leadLength x M = some 1) (h : L.toNat ≤ M.toNat) :
    leadLength x L = some 1 := by
  cases x <;> grind [leadLength]

/-- A block whose greatest byte is a one-byte form holds one-byte forms alone (R54, R57). -/
theorem leadLength_of_block {x : Variant} {L m p : Byte} (h : L &&& m = p) (htop : leadLength x (p ||| ~~~m) = some 1) :
    leadLength x L = some 1 :=
  leadLength_one_of_le htop (toNat_le_of_block h)

/-! ### The rows of a variant (R72) -/

/-- The range of a row is its block: from the pattern to the pattern with all the bits that the mask leaves open. -/
theorem row_range : ∀ (x : Variant), ∀ r ∈ formRows x, r.leadLo = r.pattern ∧ r.leadHi = r.pattern ||| ~~~r.mask
  | .a => by decide
  | .b => by decide

/-- A row of more than one leading byte is a row of one-byte forms; the sentinel announces no length (R52, R62). -/
theorem row_length : ∀ (x : Variant), ∀ r ∈ formRows x,
    (leadLength x r.leadHi = some r.length ∧ (r.leadLo = r.leadHi ∨ r.length = 1)) ∨ r.leadLo = 0xff#8
  | .a => by decide
  | .b => by decide

theorem rows_disjoint : ∀ x : Variant,
    (formRows x).Pairwise fun r r' => r.pattern &&& r'.mask ≠ r'.pattern &&& r.mask
  | .a => by decide
  | .b => by decide

theorem some_row_covers : ∀ (x : Variant) (L : Byte), ((formRows x).any fun r => r.covers L) = true
  | .a => by decide
  | .b => by decide

theorem covers_range {x : Variant} {r : FormRow} {L : Byte} (hr : r ∈ formRows x) (hcov : r.covers L = true) :
    r.leadLo.toNat ≤ L.toNat ∧ L.toNat ≤ r.leadHi.toNat := by
  obtain ⟨hlo, hhi⟩ := row_range x r hr
  have hblock : L &&& r.mask = r.pattern := of_decide_eq_true hcov
  rw [hlo, hhi]
  exact ⟨le_toNat_of_block hblock, toNat_le_of_block hblock⟩

theorem leadLength_of_covers {x : Variant} {r : FormRow} {L : Byte} (hr : r ∈ formRows x) (hcov : r.covers L = true) :
    leadLength x L = some r.length ∨ L = 0xff#8 := by
  obtain ⟨hlo, hhi⟩ := covers_range hr hcov
  obtain ⟨hlen, hone | hone⟩ | hsentinel := row_length x r hr
  · have hL : L = r.leadHi := BitVec.eq_of_toNat_eq (Nat.le_antisymm hhi (hone ▸ hlo))
    exact .inl (hL ▸ hlen)
  · rw [hone] at hlen ⊢
    exact .inl (leadLength_one_of_le hlen hhi)
  · rw [hsentinel] at hlo
    exact .inr (by bv_omega)

theorem one_row_covers (x : Variant) (L : Byte) : ∃ r, (formRows x).filter (fun r => r.covers L) = [r] := by
  have hsome : (formRows x).filter (fun r => r.covers L) ≠ [] := by
    simpa [List.filter_eq_nil_iff] using some_row_covers x L
  have hdisjoint := (rows_disjoint x).sublist (List.filter_sublist (p := fun r => r.covers L))
  obtain ⟨r, rest, hfilter⟩ := List.exists_cons_of_ne_nil hsome
  cases rest with
  | nil => exact ⟨r, hfilter⟩
  | cons r' rest =>
    have hcov : ∀ q ∈ r :: r' :: rest, q.covers L = true := by
      rw [← hfilter]
      exact fun q hq => (List.mem_filter.1 hq).2
    rw [hfilter] at hdisjoint
    have hne := List.rel_of_pairwise_cons hdisjoint List.mem_cons_self
    have hr : L &&& r.mask = r.pattern := of_decide_eq_true (hcov r (by simp))
    have hr' : L &&& r'.mask = r'.pattern := of_decide_eq_true (hcov r' (by simp))
    exact absurd hr' (blocks_disjoint hr hne)

/-- The sentinel is the byte no other row takes (R62, R65). -/
theorem sentinel_of_no_other_row {x : Variant} {L : Byte} (h : ∀ r ∈ (formRows x).dropLast, r.covers L = false) :
    L = 0xff#8 := by
  have hsome := some_row_covers x L
  cases x with
  | a => simp_all [formRows, FormRow.covers, and_ff]
  | b => simp_all [formRows, FormRow.covers, and_ff]

/-- Settles O4: some row covers the byte, no second one does, and the covering row's range and length hold of its block. -/
theorem everyLeadByteInExactlyOneRow : Obligations.EveryLeadByteInExactlyOneRow := by
  intro x L
  obtain ⟨r, hfilter⟩ := one_row_covers x L
  have hmem : r ∈ (formRows x).filter (fun r => r.covers L) := hfilter ▸ List.mem_cons_self
  obtain ⟨hr, hcov⟩ := List.mem_filter.1 hmem
  obtain ⟨hlo, hhi⟩ := covers_range hr hcov
  exact ⟨r, hfilter, hlo, hhi, leadLength_of_covers hr hcov⟩

/-- Settles O3: the decoder evaluated on each word. -/
theorem writtenOutWordsDecode : Obligations.WrittenOutWordsDecode :=
  ⟨rfl, rfl, rfl, rfl, rfl, rfl, rfl, rfl, rfl, rfl⟩

/-! ### The decoder undoes the encoder -/

/-- A direct byte passes the rows before its own, whose blocks are disjoint from its own; every other row tests for its very
leading byte. -/
theorem decodeFormA_bytes {i : Instr} (hw : WellFormed .a i = true) (hf : i.isForm = true) (rest : List Byte) :
    decodeFormA (i.bytes ++ rest) = .ok (i, rest) := by
  cases i
  case aDirect0 b | aDirect1 b | aDirect2 b | aDirect3 b | aDirect4 b | aDirect5 b =>
    have h := of_decide_eq_true hw
    simp [decodeFormA.eq_def, Instr.bytes, h, blocks_disjoint h]
  case aDirect6 b =>
    obtain rfl : b = 0xf6#8 := (and_ff b).symm.trans (of_decide_eq_true hw)
    rfl
  case aGen1 | aGen2 | aGen3 | aGen4 | aGen5 | aGen6 | aGen7 | aGen8 | aSentinel => rfl
  case encode | decode => exact nomatch hf
  all_goals exact nomatch hw

theorem decodeFormB_bytes {i : Instr} (hw : WellFormed .b i = true) (hf : i.isForm = true) (rest : List Byte) :
    decodeFormB (i.bytes ++ rest) = .ok (i, rest) := by
  cases i
  case bDirect0 b | bDirect1 b | bDirect2 b | bDirect3 b =>
    have h := of_decide_eq_true hw
    simp [decodeFormB.eq_def, Instr.bytes, h, blocks_disjoint h]
  case bDirect4 b =>
    obtain rfl : b = 0xf0#8 := (and_ff b).symm.trans (of_decide_eq_true hw)
    rfl
  case bT2k0 | bT2k1 | bT2k2 | bT2k3 | bT2k4 | bT2k5 | bT2k6 | bT3 => rfl
  case bGen3 | bGen4 | bGen5 | bGen6 | bGen7 | bGen8 | bSentinel => rfl
  case encode | decode => exact nomatch hf
  all_goals exact nomatch hw

theorem decodeForm_bytes {x : Variant} {i : Instr} (hw : WellFormed x i = true) (hf : i.isForm = true)
    (rest : List Byte) : decodeForm x (i.bytes ++ rest) = .ok (i, rest) := by
  cases x with
  | a => exact decodeFormA_bytes hw hf rest
  | b => exact decodeFormB_bytes hw hf rest

theorem encode_of_isForm {i : Instr} (hf : i.isForm = true) : encode i = .value i.bytes := by
  cases i
  case encode | decode => exact nomatch hf
  all_goals rfl

theorem decode_encode {x : Variant} {i : Instr} (hw : WellFormed x i = true) : decode x (encode i) = .ok i := by
  cases hf : i.isForm with
  | true =>
    have hbytes := decodeForm_bytes hw hf []
    rw [List.append_nil] at hbytes
    simp only [encode_of_isForm hf, decode, hbytes]
  | false =>
    cases i
    case encode | decode => rfl
    all_goals exact nomatch hf

/-- Settles O1: a form by the row its leading byte selects, a command by its tag. -/
theorem decodeOfEncodeIsIdentity : Obligations.DecodeOfEncodeIsIdentity :=
  fun _ _ hw => ⟨decode_encode hw, decodeForm_bytes hw⟩

/-! ### What the decoder answers (R52, R65, R66) -/

/-- A list that is short behind its first element, if it has one, is short. -/
theorem length_lt_succ {k : Nat} {t : List Byte} (h : ∀ b r, t = b :: r → r.length < k) : t.length < k + 1 := by
  cases t with
  | nil => exact Nat.succ_pos k
  | cons b r => exact Nat.succ_lt_succ (h b r rfl)

/-- A row fails only when its pattern of payload bytes does not match, so when there are too few of them. -/
theorem decodeFormA_error {bs : List Byte} {e : DecodeError} (h : decodeFormA bs = .error e) :
    (bs = [] ∧ e = .empty) ∨
    ∃ L t n, bs = L :: t ∧ e = .truncated ∧ leadLength .a L = some n ∧ t.length + 1 < n := by
  revert h
  fun_cases decodeFormA bs <;> intro h <;> cases h
  case case1 => exact .inl ⟨rfl, rfl⟩
  all_goals
    refine .inr ⟨_, _, _, rfl, rfl, rfl, Nat.succ_lt_succ ?_⟩
    repeat (refine length_lt_succ ?_; rintro b t rfl)
    exfalso; solve_by_elim

theorem decodeFormB_error {bs : List Byte} {e : DecodeError} (h : decodeFormB bs = .error e) :
    (bs = [] ∧ e = .empty) ∨
    ∃ L t n, bs = L :: t ∧ e = .truncated ∧ leadLength .b L = some n ∧ t.length + 1 < n := by
  revert h
  fun_cases decodeFormB bs <;> intro h <;> cases h
  case case1 => exact .inl ⟨rfl, rfl⟩
  all_goals
    refine .inr ⟨_, _, _, rfl, rfl, rfl, Nat.succ_lt_succ ?_⟩
    repeat (refine length_lt_succ ?_; rintro b t rfl)
    exfalso; solve_by_elim

theorem decodeForm_error {x : Variant} {bs : List Byte} {e : DecodeError} (h : decodeForm x bs = .error e) :
    (bs = [] ∧ e = .empty) ∨
    ∃ L t n, bs = L :: t ∧ e = .truncated ∧ leadLength x L = some n ∧ t.length + 1 < n := by
  cases x with
  | a => exact decodeFormA_error h
  | b => exact decodeFormB_error h

/-- The bytes read are the bytes of the form, no bit dropped; a direct row's byte lies in a block of one-byte forms, and the
last row is left with the one byte that no other row takes. -/
theorem decodeFormA_ok {bs rest : List Byte} {i : Instr} (h : decodeFormA bs = .ok (i, rest)) :
    i.bytes ++ rest = bs ∧ WellFormed .a i = true ∧ ∃ L p, i.bytes = L :: p ∧
      (leadLength .a L = some (p.length + 1) ∨ (L = 0xff#8 ∧ p = [])) := by
  revert h
  fun_cases decodeFormA bs <;> intro h <;> cases h
  case case25 =>
    refine ⟨congrArg (· :: rest) (Eq.symm ?_), rfl, _, _, rfl, .inr ⟨rfl, rfl⟩⟩
    exact sentinel_of_no_other_row (x := .a) (by simp_all [formRows, FormRow.covers, and_ff])
  case case9 | case11 | case13 | case15 | case17 | case19 | case21 | case23 => exact ⟨rfl, rfl, _, _, rfl, .inl rfl⟩
  all_goals
    rename_i h
    exact ⟨rfl, decide_eq_true h, _, _, rfl, .inl (leadLength_of_block h rfl)⟩

theorem decodeFormB_ok {bs rest : List Byte} {i : Instr} (h : decodeFormB bs = .ok (i, rest)) :
    i.bytes ++ rest = bs ∧ WellFormed .b i = true ∧ ∃ L p, i.bytes = L :: p ∧
      (leadLength .b L = some (p.length + 1) ∨ (L = 0xff#8 ∧ p = [])) := by
  revert h
  fun_cases decodeFormB bs <;> intro h <;> cases h
  case case2 | case3 | case4 | case5 | case6 =>
    rename_i h
    exact ⟨rfl, decide_eq_true h, _, _, rfl, .inl (leadLength_of_block h rfl)⟩
  case case35 =>
    refine ⟨congrArg (· :: rest) (Eq.symm ?_), rfl, _, _, rfl, .inr ⟨rfl, rfl⟩⟩
    exact sentinel_of_no_other_row (x := .b) (by simp_all [formRows, FormRow.covers, and_ff])
  all_goals exact ⟨rfl, rfl, _, _, rfl, .inl rfl⟩

theorem decodeForm_ok {x : Variant} {bs rest : List Byte} {i : Instr} (h : decodeForm x bs = .ok (i, rest)) :
    i.bytes ++ rest = bs ∧ WellFormed x i = true ∧ ∃ L p, i.bytes = L :: p ∧
      (leadLength x L = some (p.length + 1) ∨ (L = 0xff#8 ∧ p = [])) := by
  cases x with
  | a => exact decodeFormA_ok h
  | b => exact decodeFormB_ok h

theorem leadLength_sentinel (x : Variant) : leadLength x 0xff#8 = none := by
  cases x <;> rfl

/-- Settles O2: by what the decoder answers, an error or a form. -/
theorem leadByteAloneTellsLength : Obligations.LeadByteAloneTellsLength := by
  intro x L t
  cases hd : decodeForm x (L :: t) with
  | error e =>
    obtain ⟨⟨⟩, -⟩ | ⟨L', t', n, heq, rfl, hn, hshort⟩ := decodeForm_error hd
    cases heq
    simp [hn, hshort]
  | ok p =>
    obtain ⟨i, rest⟩ := p
    obtain ⟨hb, hw, L', p, hi, hlen⟩ := decodeForm_ok hd
    obtain ⟨rfl, rfl⟩ : L' = L ∧ p ++ rest = t := by simpa [hi] using hb
    obtain hlen | ⟨rfl, rfl⟩ := hlen
    · simp only [hlen]
      rw [if_neg (by simp)]
      exact ⟨i, rest, rfl, hb, by simp [hi], hw⟩
    · rw [leadLength_sentinel]
      exact ⟨i, rfl, hi, hw⟩

end Sys2Proof.Machine

/-! What executing a form does to a DEC that waits for a leading byte, by the class of that byte, and the step that executes the
form on the source. The statements O39, O41, O42, O43, O40 and O18. -/

namespace Sys2Proof.Machine

open Sys2Proof

/-! ### A form at a DEC in LEAD, by the class of its leading byte (R112) -/

section

variable {x : Variant} {s : State} {i : Instr} {L : Byte} {p : List Byte}

/-- A form of the direct class completes with its byte (R115, R118). -/
theorem exec_direct (hx : s.variant = x) (hp : s.dec.phase = .lead) (hf : i.isForm = true) (hb : i.bytes = [L])
    (hc : classify x L = .direct) : exec i s = .next (s.update (afterDirect L)) := by
  subst hx
  rw [exec_form hf, hb]
  exact perform_update (decRun_direct [] hp hc)

/-- The sentinel completes OUT_OF_RANGE (R117). -/
theorem exec_sentinel (hx : s.variant = x) (hp : s.dec.phase = .lead) (hf : i.isForm = true) (hb : i.bytes = [L])
    (hc : classify x L = .sentinel) : exec i s = .next (s.update (afterError .outOfRange 1)) := by
  subst hx
  rw [exec_form hf, hb]
  exact perform_update (decRun_sentinel [] hp hc)

/-- A form of a multi-byte class completes with the base added to the accumulator and the payload (R116, R119 to R123). -/
theorem exec_multi {k : MultiKind} {acc0 v : Nat} (hx : s.variant = x) (hp : s.dec.phase = .lead)
    (hf : i.isForm = true) (hb : i.bytes = L :: p) (hc : classify x L = .multi k p.length acc0)
    (hv : base x L + (acc0 * 256 ^ p.length + beval p) = v) :
    exec i s = .next (s.update (afterMulti L p acc0 v)) := by
  subst hx
  obtain ⟨h1, h8, hacc⟩ := classify_multi_bounds hc
  have hne : p ≠ [] := List.length_pos_iff.1 h1
  have hrun := decRun_multi p.dropLast (p.getLast hne) [] hp hc (by rw [List.length_dropLast]; omega) h8 (by omega)
  rw [List.dropLast_concat_getLast hne, hv, List.append_nil] at hrun
  rw [exec_form hf, hb]
  exact perform_update hrun

/-- A general form of width `w` completes with the big-endian reading of its payload: the accumulator starts at 0 and the
base is 0 (R116, R121). -/
theorem exec_gen (w : Nat) (hx : s.variant = x) (hp : s.dec.phase = .lead) (hf : i.isForm = true)
    (hb : i.bytes = L :: p) (hw : p.length = w) (hc : classify x L = .multi .gen w 0) (hbase : base x L = 0) :
    exec i s = .next (s.update (afterMulti L p 0 (beval p))) :=
  exec_multi hx hp hf hb (hw ▸ hc) (by rw [hbase, Nat.zero_mul, Nat.zero_add, Nat.zero_add])

/-- A form of the tier T2 completes with 0xf0 added to its 11-bit offset, whose bits 10 to 8 are `k` (R119). -/
theorem exec_t2 {b : Byte} {k v : Nat} (hx : s.variant = .b) (hp : s.dec.phase = .lead) (hf : i.isForm = true)
    (hb : i.bytes = [L, b]) (hc : classify .b L = .multi .t2 1 k) (hbase : base .b L = 0xf0)
    (hv : 0xf0 + 256 * k + b.toNat = v) : exec i s = .next (s.update (afterMulti L [b] k v)) :=
  exec_multi hx hp hf hb hc (by rw [hbase, ← hv]; simp only [beval, List.length_cons, List.length_nil]; omega)

/-- The form T3 completes with 0x7f0 added to the reading of its two bytes (R120). -/
theorem exec_t3 (b1 b2 : Byte) (hx : s.variant = .b) (hp : s.dec.phase = .lead) :
    exec (.bT3 b1 b2) s =
      .next (s.update (afterMulti 0xf8#8 [b1, b2] 0 (0x7f0 + (b1.toNat * 256 + b2.toNat)))) :=
  exec_multi (k := .t3) hx hp rfl rfl rfl (by rw [show base .b 0xf8#8 = 0x7f0 from rfl]; simp [beval])

theorem classify_direct_iff : classify x L = .direct ↔ leadLength x L = some 1 := by
  cases x with
  | a =>
    simp only [classify, classifyA, leadLength]
    split_ifs <;> simp
    omega
  | b =>
    simp only [classify, classifyB, leadLength]
    split_ifs <;> simp
    omega

/-- A form whose byte lies in a block of one-byte forms completes with that byte. -/
theorem exec_block {m q : Byte} (hx : s.variant = x) (hp : s.dec.phase = .lead) (hf : i.isForm = true)
    (hb : i.bytes = [L]) (htop : leadLength x (q ||| ~~~m) = some 1) (hblock : L &&& m = q) :
    exec i s = .next (s.update (afterDirect L)) :=
  exec_direct hx hp hf hb (classify_direct_iff.2 (leadLength_of_block hblock htop))

end

/-! ### The rows -/

/-- Settles O39: each row is a general form of its width. -/
theorem variantAGeneralFormsDecode : Obligations.VariantAGeneralFormsDecode :=
  fun _ _ _ _ _ _ _ _ _ hx hp =>
    ⟨exec_gen 1 hx hp rfl rfl rfl rfl rfl, exec_gen 2 hx hp rfl rfl rfl rfl rfl, exec_gen 3 hx hp rfl rfl rfl rfl rfl,
      exec_gen 4 hx hp rfl rfl rfl rfl rfl, exec_gen 5 hx hp rfl rfl rfl rfl rfl, exec_gen 6 hx hp rfl rfl rfl rfl rfl,
      exec_gen 7 hx hp rfl rfl rfl rfl rfl, exec_gen 8 hx hp rfl rfl rfl rfl rfl⟩

/-- Settles O41: each row is a block of one-byte forms. -/
theorem variantBDirectFormsDecode : Obligations.VariantBDirectFormsDecode :=
  fun _ _ hx hp =>
    ⟨fun hw => exec_block hx hp rfl rfl rfl (of_decide_eq_true hw),
      fun hw => exec_block hx hp rfl rfl rfl (of_decide_eq_true hw),
      fun hw => exec_block hx hp rfl rfl rfl (of_decide_eq_true hw),
      fun hw => exec_block hx hp rfl rfl rfl (of_decide_eq_true hw),
      fun hw => exec_block hx hp rfl rfl rfl (of_decide_eq_true hw)⟩

/-- Settles O42: T2 with `k` starts the accumulator at `k` and adds 0xf0, T3 starts it at 0 and adds 0x7f0. -/
theorem variantBDenseTiersDecode : Obligations.VariantBDenseTiersDecode :=
  fun _ b1 b2 hx hp =>
    ⟨exec_t2 hx hp rfl rfl rfl rfl rfl, exec_t2 hx hp rfl rfl rfl rfl rfl, exec_t2 hx hp rfl rfl rfl rfl rfl,
      exec_t2 hx hp rfl rfl rfl rfl rfl, exec_t2 hx hp rfl rfl rfl rfl rfl, exec_t2 hx hp rfl rfl rfl rfl rfl,
      exec_t2 hx hp rfl rfl rfl rfl rfl, exec_t3 b1 b2 hx hp⟩

/-- Settles O43: each row is a general form of its width, with base 0 in variant B too. -/
theorem variantBGeneralFormsDecode : Obligations.VariantBGeneralFormsDecode :=
  fun _ _ _ _ _ _ _ _ _ hx hp =>
    ⟨exec_gen 3 hx hp rfl rfl rfl rfl rfl, exec_gen 4 hx hp rfl rfl rfl rfl rfl, exec_gen 5 hx hp rfl rfl rfl rfl rfl,
      exec_gen 6 hx hp rfl rfl rfl rfl rfl, exec_gen 7 hx hp rfl rfl rfl rfl rfl, exec_gen 8 hx hp rfl rfl rfl rfl rfl⟩

/-- Settles O40: the byte 0xff is the sentinel in both variants. -/
theorem sentinelIsOutOfRange : Obligations.SentinelIsOutOfRange :=
  fun _ hp => ⟨fun hx => exec_sentinel hx hp rfl rfl rfl, fun hx => exec_sentinel hx hp rfl rfl rfl⟩

/-! ### The step that executes the form on the source (log 6) -/

theorem readyBytes_append (bs : List Byte) (rest : List SrcAnswer) :
    readyBytes (bs.map .byte ++ rest) = bs ++ readyBytes rest := by
  induction bs with
  | nil => rfl
  | cons b bs ih => simp [readyBytes, ih]

theorem fetch_bytes {x : Variant} {i : Instr} {rest : List SrcAnswer} {s : RunState} (hp : s.dec.phase = .lead)
    (hw : WellFormed x i = true) (hf : i.isForm = true) (hsource : s.source = i.bytes.map .byte ++ rest) :
    fetch x s = some i := by
  simp only [fetch, hp, hsource, readyBytes_append, decodeForm_bytes hw hf]

/-- Every form has a leading byte. -/
theorem bytes_ne_nil {i : Instr} (hf : i.isForm = true) : i.bytes ≠ [] := by
  cases i
  case encode | decode => exact nomatch hf
  all_goals exact List.cons_ne_nil _ _

/-- Settles O18: the source is ready with the leading byte, and the decoder gives back the form its bytes are of (O1). -/
theorem stepRunsTheFormOnTheSource : Obligations.StepRunsTheFormOnTheSource := by
  intro s i rest hp hw hf hsource
  obtain ⟨L, p, hb⟩ := List.exists_cons_of_ne_nil (bytes_ne_nil hf)
  have hready : decReady s.run = true :=
    decReady_iff.2 ⟨by simp [hp], .byte L, p.map .byte ++ rest, by simp [hsource, hb]⟩
  rw [step, if_pos hready, fetch_bytes hp hw hf hsource]

end Sys2Proof.Machine

/-! The byte sequences the encoder can produce (30_encoding.md R63): the width of a byte sequence, the encoders class by class,
and which value each sequence of the set is the encoding of. The statements O15 and O16. -/

namespace Sys2Proof.Machine

open Sys2Proof

/-! ### The width of a byte sequence (R7, R82) -/

/-- A byte sequence needs all its bytes exactly when the first of them is not zero. -/
theorem le_beval_cons_iff {b : Byte} (p : List Byte) : 256 ^ p.length ≤ beval (b :: p) ↔ b ≠ 0x00#8 := by
  constructor
  · rintro h rfl
    have hlt := beval_lt p
    simp only [beval, BitVec.toNat_ofNat, Nat.zero_mod, Nat.zero_mul, Nat.zero_add] at h
    omega
  · intro hb
    have hpos : 1 ≤ b.toNat := by bv_omega
    calc 256 ^ p.length
      _ ≤ b.toNat * 256 ^ p.length := Nat.le_mul_of_pos_left _ hpos
      _ ≤ beval (b :: p) := Nat.le_add_right _ _

/-- Powers of 256 grow, so only one width fits. -/
theorem bewidth_eq {v w : Nat} (hv : v < 2 ^ 64) (hlo : 256 ^ w ≤ v) (hhi : v < 256 ^ (w + 1)) :
    bewidth v = w + 1 := by
  have hpos : 1 ≤ v := le_trans (Nat.one_le_pow _ _ (by decide)) hlo
  obtain ⟨-, -, hmin, hmax⟩ := bewidth_bounds hpos hv
  have hle : w < bewidth v := (Nat.pow_lt_pow_iff_right (by decide)).1 (hlo.trans_lt hmax)
  have hge : bewidth v - 1 < w + 1 := (Nat.pow_lt_pow_iff_right (by decide)).1 (hmin.trans_lt hhi)
  omega

/-- The payload of a general form: as many bytes as the value is wide, the first of them not zero, reading as the value. -/
theorem be_bewidth_cons {v : Nat} (hpos : 1 ≤ v) (hlt : v < 2 ^ 64) :
    ∃ b p, be v (bewidth v) = b :: p ∧ (b :: p).length = bewidth v ∧ b ≠ 0x00#8 ∧ beval (b :: p) = v := by
  obtain ⟨h1, -, hmin, hmax⟩ := bewidth_bounds hpos hlt
  obtain ⟨b, p, hbe⟩ := List.exists_cons_of_length_pos (l := be v (bewidth v)) (by rw [be_length]; exact h1)
  have hlen : (b :: p).length = bewidth v := by rw [← hbe, be_length]
  have hval : beval (b :: p) = v := by rw [← hbe, beval_be_of_lt hmax]
  refine ⟨b, p, hbe, hlen, (le_beval_cons_iff p).1 ?_, hval⟩
  rwa [hval, show p.length = bewidth v - 1 from Nat.eq_sub_of_add_eq hlen]

/-! ### The encoders class by class (R84, R85, R90 to R93) -/

theorem encodeA_direct {v : Word} (h : v.toNat ≤ 0xf6) : encodeA v = [BitVec.ofNat 8 v.toNat] := by
  simp [encodeA, h]

theorem encodeA_general {v : Word} (h : 0xf6 < v.toNat) :
    encodeA v = BitVec.ofNat 8 (0xf6 + bewidth v.toNat) :: be v.toNat (bewidth v.toNat) := by
  simp [encodeA, Nat.not_le.2 h]

theorem encodeB_direct {v : Word} (h : v.toNat ≤ 0xf0) : encodeB v = [BitVec.ofNat 8 v.toNat] := by
  simp [encodeB, h]

theorem encodeB_t2 {v : Word} (hlo : 0xf0 < v.toNat) (hhi : v.toNat ≤ 0x7ef) :
    encodeB v = [BitVec.ofNat 8 (0xf1 + (v.toNat - 0xf0) / 256), BitVec.ofNat 8 ((v.toNat - 0xf0) % 256)] := by
  simp [encodeB, Nat.not_le.2 hlo, hhi]

theorem encodeB_t3 {v : Word} (hlo : 0x7ef < v.toNat) (hhi : v.toNat ≤ 0x107ef) :
    encodeB v = 0xf8#8 :: be (v.toNat - 0x7f0) 2 := by
  have h0 : 0xf0 < v.toNat := by omega
  simp [encodeB, Nat.not_le.2 h0, Nat.not_le.2 hlo, hhi]

theorem encodeB_general {v : Word} (h : 0x107ef < v.toNat) :
    encodeB v = BitVec.ofNat 8 (0xf6 + bewidth v.toNat) :: be v.toNat (bewidth v.toNat) := by
  have h0 : 0xf0 < v.toNat := by omega
  have h1 : 0x7ef < v.toNat := by omega
  simp [encodeB, Nat.not_le.2 h0, Nat.not_le.2 h1, Nat.not_le.2 h]

/-! ### The value a sequence encodes -/

theorem exists_word {n : Nat} (h : n < 2 ^ 64) : ∃ v : Word, v.toNat = n :=
  ⟨BitVec.ofNat 64 n, Nat.mod_eq_of_lt h⟩

theorem ofNat_toNat_byte (b : Byte) : BitVec.ofNat 8 b.toNat = b := by
  rw [BitVec.ofNat_toNat, BitVec.setWidth_eq]

/-- A payload whose first byte is not zero is the payload of the value it reads as, whose width is its length. -/
theorem exists_general {b : Byte} {p : List Byte} (hb : b ≠ 0x00#8) (h8 : (b :: p).length ≤ 8) :
    ∃ v : Word, v.toNat = beval (b :: p) ∧
      BitVec.ofNat 8 (0xf6 + bewidth v.toNat) :: be v.toNat (bewidth v.toNat) =
        BitVec.ofNat 8 (0xf6 + (b :: p).length) :: b :: p := by
  have hlt : beval (b :: p) < 2 ^ 64 := (beval_lt _).trans_le (Nat.pow_le_pow_right (n := 256) (by decide) h8)
  have hwidth : bewidth (beval (b :: p)) = (b :: p).length :=
    bewidth_eq hlt ((le_beval_cons_iff p).2 hb) (beval_lt (b :: p))
  obtain ⟨v, hv⟩ := exists_word hlt
  exact ⟨v, hv, by rw [hv, hwidth, be_beval]⟩

theorem exists_encodeB_t2 {k : Nat} {b : Byte} (hk : k ≤ 6) (hkb : ¬(k = 0 ∧ b = 0x00#8)) :
    ∃ v, encodeB v = [BitVec.ofNat 8 (0xf1 + k), b] := by
  obtain ⟨v, hv⟩ := exists_word (n := 0xf0 + (256 * k + b.toNat)) (by omega)
  have hpos : 0 < 256 * k + b.toNat := by
    by_contra h0
    exact hkb ⟨by omega, by bv_omega⟩
  have hhigh : (v.toNat - 0xf0) / 256 = k := by omega
  have hlow : (v.toNat - 0xf0) % 256 = b.toNat := by omega
  exact ⟨v, by rw [encodeB_t2 (by omega) (by omega), hhigh, hlow, ofNat_toNat_byte]⟩

theorem exists_encodeB_t3 (b1 b2 : Byte) : ∃ v, encodeB v = [0xf8#8, b1, b2] := by
  have hlt : beval [b1, b2] < 256 ^ 2 := beval_lt [b1, b2]
  obtain ⟨v, hv⟩ := exists_word (n := 0x7f0 + beval [b1, b2]) (by omega)
  have hbe : be (v.toNat - 0x7f0) 2 = [b1, b2] := by
    rw [hv, Nat.add_sub_cancel_left]
    exact be_beval [b1, b2]
  exact ⟨v, by rw [encodeB_t3 (by omega) (by omega), hbe]⟩

/-! ### The sets (R63) -/

/-- A general form of variant A is one the encoder produces when its payload has no leading zero byte and reads above the
direct values; with two bytes or more the second follows from the first. -/
theorem generalA_iff {b : Byte} {p : List Byte} :
    ((b :: p).length = 1 → 0xf7 ≤ b.toNat) ∧ (2 ≤ (b :: p).length → b ≠ 0x00#8) ↔
      b ≠ 0x00#8 ∧ 0xf6 < beval (b :: p) := by
  cases p with
  | nil =>
    have hval : beval [b] = b.toNat := by simp [beval]
    rw [hval]
    refine ⟨fun h => ?_, fun h => ⟨fun _ => h.2, fun _ => h.1⟩⟩
    have hbig := h.1 rfl
    exact ⟨by bv_omega, hbig⟩
  | cons c q =>
    have h256 : 256 ≤ 256 ^ (c :: q).length := Nat.le_self_pow (by simp) 256
    refine ⟨fun h => ?_, fun h => ⟨nofun, fun _ => h.1⟩⟩
    have hb := h.2 (by simp)
    have hwide := (le_beval_cons_iff (c :: q)).2 hb
    exact ⟨hb, by omega⟩

/-- A general form of variant B is one the encoder produces when its payload has no leading zero byte and reads above the
dense tiers; each width leaves one of the two to say. -/
theorem generalB_iff {b : Byte} {p : List Byte} (h3 : 3 ≤ (b :: p).length) :
    ((b :: p).length = 3 → 0x107f0 ≤ beval (b :: p)) ∧ (4 ≤ (b :: p).length → b ≠ 0x00#8) ↔
      b ≠ 0x00#8 ∧ 0x107ef < beval (b :: p) := by
  refine ⟨fun ⟨hthree, hmore⟩ => ?_, fun ⟨hb, hbig⟩ => ⟨fun _ => hbig, fun _ => hb⟩⟩
  obtain hw | hw : (b :: p).length = 3 ∨ 4 ≤ (b :: p).length := by omega
  · have hp : p.length = 2 := Nat.succ.inj hw
    have hval := hthree hw
    exact ⟨(le_beval_cons_iff p).1 (by rw [hp]; omega), hval⟩
  · have hp : 256 ^ 3 ≤ 256 ^ p.length := Nat.pow_le_pow_right (by decide) (Nat.le_of_succ_le_succ hw)
    have hwide := (le_beval_cons_iff p).2 (hmore hw)
    exact ⟨hmore hw, by omega⟩

/-- Settles O15: each class of the encoder is one part of the set, and each sequence of a part is the encoding of the value
its byte or its payload reads as. -/
theorem canonicalSetOfVariantA : Obligations.CanonicalSetOfVariantA := by
  intro s
  constructor
  · rintro ⟨v, rfl⟩
    rw [encodeValue]
    by_cases h : v.toNat ≤ 0xf6
    · rw [encodeA_direct h]
      exact .inl ⟨_, rfl, by rw [BitVec.toNat_ofNat]; omega⟩
    · rw [encodeA_general (by omega)]
      obtain ⟨h1, h8, -, -⟩ := bewidth_bounds (v := v.toNat) (by omega) v.isLt
      obtain ⟨b, p, hbe, hlen, hb, hval⟩ := be_bewidth_cons (v := v.toNat) (by omega) v.isLt
      have hcanonical := (generalA_iff (p := p)).2 ⟨hb, by omega⟩
      exact .inr ⟨_, b, p, h1, h8, hlen, by rw [hbe], hlen ▸ hcanonical⟩
  · rintro (⟨L, rfl, hL⟩ | ⟨w, b, p, -, h8, rfl, rfl, hcanonical⟩)
    · obtain ⟨v, hv⟩ := exists_word (n := L.toNat) (by omega)
      exact ⟨v, by rw [encodeValue, encodeA_direct (by omega), hv, ofNat_toNat_byte]⟩
    · obtain ⟨hb, hbig⟩ := generalA_iff.1 hcanonical
      obtain ⟨v, hv, henc⟩ := exists_general hb h8
      exact ⟨v, by rw [encodeValue, encodeA_general (by omega), henc]⟩

/-- Settles O16: as for variant A, with the two dense tiers between the direct values and the general forms. -/
theorem canonicalSetOfVariantB : Obligations.CanonicalSetOfVariantB := by
  intro s
  constructor
  · rintro ⟨v, rfl⟩
    rw [encodeValue]
    by_cases h1 : v.toNat ≤ 0xf0
    · rw [encodeB_direct h1]
      exact .inl ⟨_, rfl, by rw [BitVec.toNat_ofNat]; omega⟩
    by_cases h2 : v.toNat ≤ 0x7ef
    · rw [encodeB_t2 (by omega) h2]
      refine .inr (.inl ⟨(v.toNat - 0xf0) / 256, _, by omega, rfl, ?_⟩)
      rintro ⟨hk, hb⟩
      bv_omega
    by_cases h3 : v.toNat ≤ 0x107ef
    · rw [encodeB_t3 (by omega) h3]
      exact .inr (.inr (.inl ⟨_, _, rfl⟩))
    · rw [encodeB_general (by omega)]
      obtain ⟨-, h8, -, hmax⟩ := bewidth_bounds (v := v.toNat) (by omega) v.isLt
      obtain ⟨b, p, hbe, hlen, hb, hval⟩ := be_bewidth_cons (v := v.toNat) (by omega) v.isLt
      have hwide : 2 < bewidth v.toNat := (Nat.pow_lt_pow_iff_right (a := 256) (by decide)).1 (by omega)
      have hcanonical := (generalB_iff (p := p) (hlen ▸ hwide)).2 ⟨hb, by omega⟩
      exact .inr (.inr (.inr ⟨_, b, p, hwide, h8, hlen, by rw [hbe], hlen ▸ hcanonical⟩))
  · rintro (⟨L, rfl, hL⟩ | ⟨k, b, hk, rfl, hkb⟩ | ⟨b1, b2, rfl⟩ | ⟨w, b, p, h3, h8, rfl, rfl, hcanonical⟩)
    · obtain ⟨v, hv⟩ := exists_word (n := L.toNat) (by omega)
      exact ⟨v, by rw [encodeValue, encodeB_direct (by omega), hv, ofNat_toNat_byte]⟩
    · exact exists_encodeB_t2 hk hkb
    · exact exists_encodeB_t3 b1 b2
    · obtain ⟨hb, hbig⟩ := (generalB_iff h3).1 hcanonical
      obtain ⟨v, hv, henc⟩ := exists_general hb h8
      exact ⟨v, by rw [encodeValue, encodeB_general (by omega), henc]⟩

end Sys2Proof.Machine

/-! The encoder (40_encoder.md): the length a leading byte announces against the bytes of the encoding, the packer's transfer at
the step, ENCODE on every list of answers of the sink, and the machine that waits. The statements O7, O20, O25, O26, O29, O31
and O24. -/

namespace Sys2Proof.Machine

open Sys2Proof

variable {x : Variant}

/-! ### The length formula (R96, R147) -/

/-- The leading byte of a multi-byte class announces itself and its payload (R52, R112). -/
theorem leadLength_of_multi {L : Byte} {k : MultiKind} {n acc0 : Nat} (h : classify x L = .multi k n acc0) :
    leadLength x L = some (1 + n) := by
  cases x with
  | a =>
    rw [classify] at h; revert h
    fun_cases classifyA L
    case case1 => nofun
    case case2 l hdirect hgen => rintro ⟨⟩; simp [leadLength, l, hdirect, hgen]
    case case3 => nofun
  | b =>
    rw [classify] at h; revert h
    fun_cases classifyB L
    case case1 => nofun
    case case2 l hdirect ht2 => rintro ⟨⟩; simp [leadLength, l, hdirect, ht2]
    case case3 l hdirect ht2 ht3 => rintro ⟨⟩; simp [leadLength, l, ht3]
    case case4 l hdirect ht2 ht3 hgen => rintro ⟨⟩; simp [leadLength, l, hdirect, ht2, ht3, hgen]
    case case5 => nofun

/-- What DEC reads as a value is as long as its leading byte announces (R52). -/
theorem ReadsAs.announced_length {bs : List Byte} {v : Word} (h : ReadsAs x bs v) :
    (bs.head?.bind fun L => leadLength x L) = some bs.length := by
  cases h with
  | direct L v hc hv => simpa using classify_direct_iff.1 hc
  | multi L p v k acc0 hc hv => simpa [Nat.add_comm] using leadLength_of_multi hc

/-- Settles O7: the formula follows the encoder class by class, and an encoding is read as its value (R141), so that its
leading byte announces its length. -/
theorem encodedLengthFormula : Obligations.EncodedLengthFormula := by
  intro x v
  rw [← encodeValue_length x v]
  obtain ⟨h1, h9⟩ := encodeValue_length_bounds x v
  exact ⟨rfl, h1, h9, (encodeValue_readsAs x v).announced_length⟩

/-! ### The packer's transfer (R97, R98) -/

/-- The byte presented is the first of the bytes to come (R81). -/
theorem drop_of_packerByte {b : Byte} {s : RunState} (hb : packerByte x s = some b) :
    (encodeValue x s.enc.value).drop s.enc.idx.toNat = b :: (encodeValue x s.enc.value).drop (s.enc.idx.toNat + 1) := by
  obtain ⟨hlt, hget⟩ := List.getElem?_eq_some_iff.1 hb
  rw [List.drop_eq_getElem_cons hlt, hget]

/-- A transfer the sink fails completes IO_ERROR (R98). -/
theorem encTransfer_failed {s : RunState} (hk : s.enc.idx.toNat < (encodeValue x s.enc.value).length) :
    encTransfer x .err s = .next { s with
      sinkAnswers := s.sinkAnswers.tail
      enc := { s.enc with phase := .idle, done := true, status := some .ioError }
      results := s.results ++ [.enc .ioError] } := by
  have hbyte : packerByte x s = some (encodeValue x s.enc.value)[s.enc.idx.toNat] := List.getElem?_eq_getElem hk
  simp [encTransfer, hbyte, sinkWrite, encComplete]

/-- With nothing for DEC to read, an ENC whose sink has answered makes the transfer (log 7). -/
theorem step_encTransfer {s : State} {r : SinkAnswer} {rest : List SinkAnswer} (hd : decReady s.run = false)
    (hp : s.enc.phase = .emit) (hanswers : s.sinkAnswers = r :: rest) : step s = perform (encTransfer · r) s := by
  have he : encReady s.run = true := encReady_iff.2 ⟨hp, r, rest, hanswers⟩
  simp only [step, hd, he, if_true, Bool.false_eq_true, if_false, perform, encNext, hanswers]

/-- Settles O20: the step is the packer's transfer, which fails, ends the operation, or goes on to the next index. -/
theorem stepMakesThePackersTransfer : Obligations.StepMakesThePackersTransfer := by
  intro s b rest hd hp hb
  have hcome := drop_of_packerByte hb
  have hlt : s.enc.idx.toNat < (encodeValue s.variant s.enc.value).length := (List.getElem?_eq_some_iff.1 hb).1
  refine ⟨fun hanswers => ?_, fun hanswers hlast => ?_, fun hanswers hmore => ?_⟩
  · rw [step_encTransfer hd hp hanswers, perform_of_next (encTransfer_failed hlt)]
    simp [hanswers]
  · rw [step_encTransfer hd hp hanswers, perform_of_next (encTransfer_last hlast), hcome, hlast]
    simp [hanswers]
  · rw [step_encTransfer hd hp hanswers, perform_of_next (encTransfer_accepted (by omega))]
    simp [afterAccepted, hcome, hanswers]

/-! ### ENCODE on every list of answers (R80, R98, R99) -/

/-- Settles O25: after the start the run accepts every byte, and the last one completes. -/
theorem encodeWritesTheEncoding : Obligations.EncodeWritesTheEncoding :=
  fun s v _ hidle hanswers => (exec_encode v s).trans (perform_of_next (encCommand_writes hidle hanswers))

/-- An ENCODE whose sink fails transfer `k` stores the bytes before it and completes IO_ERROR (R98). -/
theorem encCommand_stops {v : Word} {k : Nat} {rest : List SinkAnswer} {s : RunState} (hidle : s.enc.phase = .idle)
    (hk : k < (encodeValue x v).length) (hanswers : s.sinkAnswers = List.replicate k .ok ++ .err :: rest) :
    encCommand x v s = .next { s with
      sink := s.sink ++ (encodeValue x v).take k
      sinkAnswers := rest
      enc := { phase := .idle, value := v, idx := BitVec.ofNat 4 k, done := true, status := some .ioError }
      results := s.results ++ [.enc .ioError] } := by
  have hlen := (encodeValue_length_bounds x v).2
  have hstop : (afterAccepted x k (encStart v s)).enc.idx.toNat <
      (encodeValue x (afterAccepted x k (encStart v s)).enc.value).length := by
    simp [afterAccepted]; omega
  rw [encCommand_idle v hidle, hanswers, encRun_accepted k _ rfl (by simpa using hk), encRun_cons _ _ rfl,
    encTransfer_failed hstop, andThen_next, encRun_idle _ rfl]
  simp [afterAccepted, hanswers]

/-- Settles O26: after the start the run accepts `k` bytes from index 0, and then the sink fails the transfer of byte `k`. -/
theorem encodeStopsAtASinkFailure : Obligations.EncodeStopsAtASinkFailure :=
  fun s v _ _ hidle hk hanswers => (exec_encode v s).trans (perform_of_next (encCommand_stops hidle hk hanswers))

/-- Of `n` transfers the sink has answered fewer, all `Ok`, or has failed one, or has accepted every one. -/
theorem sinkAnswers_cases (n : Nat) (answers : List SinkAnswer) :
    (∃ k < n, answers = List.replicate k SinkAnswer.ok) ∨
    (∃ k < n, ∃ rest, answers = List.replicate k SinkAnswer.ok ++ SinkAnswer.err :: rest) ∨
    (∃ rest, answers = List.replicate n SinkAnswer.ok ++ rest) := by
  induction n generalizing answers with
  | zero => exact .inr (.inr ⟨answers, rfl⟩)
  | succ n ih =>
    match answers with
    | [] => exact .inl ⟨0, n.succ_pos, rfl⟩
    | .err :: rest => exact .inr (.inl ⟨0, n.succ_pos, rest, rfl⟩)
    | .ok :: answers =>
      obtain ⟨k, hk, rfl⟩ | ⟨k, hk, rest, rfl⟩ | ⟨rest, rfl⟩ := ih answers
      · exact .inl ⟨k + 1, Nat.succ_lt_succ hk, rfl⟩
      · exact .inr (.inl ⟨k + 1, Nat.succ_lt_succ hk, rest, rfl⟩)
      · exact .inr (.inr ⟨rest, rfl⟩)

/-- Settles O29: a busy ENC takes no answer; an idle one waits (O27), stops at a failure (O26) or completes (O25), and takes
the answers up to there. -/
theorem encodeNeverFaults : Obligations.EncodeNeverFaults := by
  intro s v
  obtain ⟨-, h9⟩ := encodeValue_length_bounds s.variant v
  rw [← encodeValue_length]
  cases hp : s.enc.phase with
  | emit => exact ⟨s, 0, (exec_encode v s).trans (perform_of_next (encCommand_busy v hp)), by omega, by omega, rfl⟩
  | idle =>
    obtain ⟨k, hk, hanswers⟩ | ⟨k, hk, rest, hanswers⟩ | ⟨rest, hanswers⟩ :=
      sinkAnswers_cases (encodeValue s.variant v).length s.sinkAnswers
    · exact ⟨_, k, encodeWaitsForTheSink s v k hp hk hanswers, by omega, by omega, by simp [hanswers]⟩
    · exact ⟨_, k + 1, encodeStopsAtASinkFailure s v k rest hp hk hanswers, by omega, by omega,
        by simp [hanswers, List.drop_append]⟩
    · exact ⟨_, _, encodeWritesTheEncoding s v rest hp hanswers, le_rfl, h9, by simp [hanswers]⟩

/-! ### ENCODE as its transfers (R97, R99) -/

/-- A transfer of the packer uses up the answer. -/
theorem encTransfer_sinkAnswers {r : SinkAnswer} {s t : RunState} (h : encTransfer x r s = .next t) :
    t.sinkAnswers = s.sinkAnswers.tail := by
  obtain ⟨b, -, ⟨-, rfl⟩ | ⟨-, -, rfl⟩ | ⟨-, -, rfl⟩⟩ := encTransfer_next h <;> simp

theorem encTransfers_idle (n : Nat) {s : State} (hp : s.enc.phase = .idle) : encTransfers n s = .next s := by
  cases n <;> simp [encTransfers, hp]

theorem encTransfers_succ (n : Nat) {s : State} (hp : s.enc.phase = .emit) :
    encTransfers (n + 1) s = andThen (perform encNext s) (encTransfers n) := by
  simp [encTransfers, hp]

/-- A run over the answers the sink is ready to give is the transfers ENC makes of them. -/
theorem perform_encRun (rs : List SinkAnswer) {s : State} (hanswers : s.sinkAnswers = rs) :
    perform (encRun · rs) s = encTransfers rs.length s := by
  induction rs generalizing s with
  | nil => rfl
  | cons r rs ih =>
    cases hp : s.enc.phase with
    | idle => rw [encTransfers_idle _ hp, perform_of_next (encRun_idle _ hp)]
    | emit =>
      have hfirst : perform encNext s = perform (encTransfer · r) s := by
        simp [perform, encNext, hanswers]
      have hrun : perform (encRun · (r :: rs)) s = andThen (perform (encTransfer · r) s) (perform (encRun · rs)) := by
        rw [← perform_andThen]
        simp only [perform, encRun_cons _ _ hp]
      rw [hrun, List.length_cons, encTransfers_succ _ hp, hfirst]
      cases ht : perform (encTransfer · r) s with
      | next t =>
        refine ih (s := t) ?_
        rw [encTransfer_sinkAnswers (perform_eq_next ht).1, hanswers]
        rfl
      | fault e => rfl
      | refused e => rfl

/-- Settles O31: the command is its start and the run over the ready answers, each of which is one transfer. -/
theorem encodeIsItsTransfers : Obligations.EncodeIsItsTransfers := by
  intro s v hidle
  rw [← perform_encRun s.sinkAnswers (s := s.update (encStart v)) rfl, exec_encode]
  simp only [perform, encCommand_idle v hidle]
  rfl

/-! ### The machine that waits (R101, R130) -/

/-- No event happens while every one is a command held for a busy unit (R16, R18, log 9). -/
theorem firstFree_of_all_held {s : RunState} (us : List CoreUnit) (events : List Event)
    (hheld : ∀ e ∈ events, (e = .decStart ∧ s.dec.phase ≠ .idle) ∨ (s.enc.phase = .emit ∧ ∃ v, e = .encStart v)) :
    firstFree s us events = none := by
  induction events generalizing us with
  | nil => rfl
  | cons e events ih =>
    have he : e.waits s us = true := by
      obtain ⟨rfl, hbusy⟩ | ⟨hbusy, v, rfl⟩ := hheld e List.mem_cons_self
      · exact waits_of_busy us rfl rfl (by simp [unitIdle, hbusy])
      · exact waits_of_busy us rfl rfl (by simp [unitIdle, hbusy])
    rw [firstFree_waits _ he, ih _ fun c hc => hheld c (List.mem_cons_of_mem e hc)]
    rfl

/-- Settles O24: no unit has an answer to take, and no event of the platform has not to wait. -/
theorem waitingIsStuckNotFaulted : Obligations.WaitingIsStuckNotFaulted :=
  fun s hd he hheld => step_of_no_event hd he (firstFree_of_all_held [] s.events hheld)

end Sys2Proof.Machine

/-! DECODE (41_decoder.md): the step that is one transfer of DEC, the bounds that hold in the middle of a value, the form next
on the source, and DECODE on every list of answers. The statements O21, O22, O23, O48, O38, O35, O37, O33 and O32. -/

namespace Sys2Proof.Machine

open Sys2Proof

variable {x : Variant}

/-! ### DEC's transfer at the step (R112, R122, R124, R125) -/

/-- With no whole form on its source, a DEC in flight whose source has answered makes one transfer (log 6, log 7). -/
theorem step_decTransfer {s : State} {r : SrcAnswer} {rest : List SrcAnswer} (hp : s.dec.phase ≠ .idle)
    (hsource : s.source = r :: rest) (hfetch : fetch s.variant s.run = none) :
    step s = perform (decTransfer · r) s := by
  have hd : decReady s.run = true := decReady_iff.2 ⟨hp, r, rest, hsource⟩
  simp only [step, hd, hfetch, if_true, perform, decNext, hsource]

/-- A leading byte whose payload is not all there starts no whole form (R66). -/
theorem fetch_of_short_payload {L : Byte} {rest : List SrcAnswer} {k : MultiKind} {n acc0 : Nat} {s : RunState}
    (hsource : s.source = .byte L :: rest) (hc : classify x L = .multi k n acc0)
    (hshort : (readyBytes rest).length < n) : fetch x s = none := by
  have hform := leadByteAloneTellsLength x L (readyBytes rest)
  simp only [leadLength_of_multi hc] at hform
  rw [if_pos (by omega)] at hform
  unfold fetch
  rw [hsource, readyBytes, hform]
  cases s.dec.phase <;> rfl

/-- In PAYLOAD no form is looked for: the bytes to come belong to the value in progress (R47). -/
theorem fetch_payload {s : RunState} (hp : s.dec.phase = .payload) : fetch x s = none := by
  simp [fetch, hp]

/-- Settles O21: no form is whole, so the step is the LEAD step of the byte. -/
theorem stepReadsALeadingByteAlone : Obligations.StepReadsALeadingByteAlone := by
  intro s L rest k n acc0 hp hsource hc hshort
  rw [step_decTransfer (by simp [hp]) hsource (fetch_of_short_payload hsource hc hshort),
    perform_of_next (decTransfer_lead_multi hp hc)]
  simp [hsource]

theorem payloadByte_last (b : Byte) {s : RunState} (hlast : s.dec.rem = 1#4) :
    payloadByte x b s =
      .next (decCompleteOk (BitVec.ofNat 64 (base x s.dec.lead) + ((s.dec.acc <<< 8) ||| b.setWidth 64)) s) := by
  simp [payloadByte, hlast]

theorem payloadByte_more (b : Byte) {s : RunState} (h1 : 1 ≤ s.dec.rem.toNat) (h8 : s.dec.rem.toNat ≤ 8)
    (hmore : s.dec.rem ≠ 1#4) :
    payloadByte x b s = .next { s with dec := { s.dec with
      acc := (s.dec.acc <<< 8) ||| b.setWidth 64, rem := s.dec.rem - 1#4 } } := by
  have hrange : ¬(s.dec.rem.toNat = 0 ∨ 8 < s.dec.rem.toNat) := by omega
  simp only [payloadByte, hrange, hmore, if_false]

/-- Settles O22: the step is the PAYLOAD step of the byte, which is the last one or is not. -/
theorem stepReadsAPayloadByte : Obligations.StepReadsAPayloadByte := by
  intro s b rest hp h1 h8 hsource
  rw [step_decTransfer (by simp [hp]) hsource (fetch_payload hp)]
  refine ⟨fun hlast => ?_, fun hmore => ?_⟩
  · have hrun := (decTransfer_payload b hp).trans
      (payloadByte_last (x := s.variant) b (s := srcRead (.byte b) s.run) (BitVec.eq_of_toNat_eq hlast))
    rw [perform_of_next hrun]
    simp [decCompleteOk, srcRead, hsource]
  · have hrun := (decTransfer_payload b hp).trans
      (payloadByte_more (x := s.variant) b (s := srcRead (.byte b) s.run) h1 h8
        fun hlast => hmore (congrArg BitVec.toNat hlast))
    rw [perform_of_next hrun]
    simp [srcRead, hsource]

/-- The status with which an answer of the source ends a DECODE in flight; a byte ends none by itself (R124, R125). -/
def SrcAnswer.failure : SrcAnswer → Option Status
  | .byte _ => none
  | .endOfStream => some .truncated
  | .err => some .ioError

/-- `End` and `Err` end a DECODE in flight, consume no byte and leave no value (R124, R125). -/
theorem decTransfer_failure {r : SrcAnswer} {st : Status} {s : RunState} (hr : r.failure = some st)
    (hp : s.dec.phase ≠ .idle) : decTransfer x r s = .next (afterError st 0 s) := by
  cases r with
  | byte b => cases hr
  | endOfStream => cases hr; simp [decTransfer_end hp, decCompleteError, srcRead, afterError]
  | err => cases hr; simp [decTransfer_err hp, decCompleteError, srcRead, afterError]

/-- No form begins with `End` or `Err`. -/
theorem fetch_of_failure {r : SrcAnswer} {st : Status} {rest : List SrcAnswer} {s : RunState}
    (hr : r.failure = some st) (hsource : s.source = r :: rest) : fetch x s = none := by
  have hready : readyBytes s.source = [] := by
    rw [hsource]
    cases r with
    | byte b => cases hr
    | endOfStream | err => rfl
  unfold fetch
  rw [hready]
  cases s.dec.phase <;> cases x <;> rfl

theorem step_failure {r : SrcAnswer} {st : Status} {rest : List SrcAnswer} {s : State} (hr : r.failure = some st)
    (hp : s.dec.phase ≠ .idle) (hsource : s.source = r :: rest) : step s = .next (s.update (afterError st 0)) := by
  rw [step_decTransfer hp hsource (fetch_of_failure hr hsource)]
  exact perform_update (decTransfer_failure hr hp)

/-- Settles O23: the step is the transfer that `End` or `Err` answers. -/
theorem failedSourceTransferEndsTheDecode : Obligations.FailedSourceTransferEndsTheDecode :=
  fun _ _ hp => ⟨step_failure rfl hp, step_failure rfl hp⟩

/-! ### The bounds in the middle of a value (R123, R148) -/

theorem base_le (x : Variant) (L : Byte) : base x L ≤ 0x7f0 := by
  cases x with
  | a => exact Nat.zero_le _
  | b => rw [base]; split_ifs <;> decide

/-- A multi-byte class starts its accumulator at 0 and adds no base, or has at most two payload bytes (R61, R113, R114). -/
theorem classify_multi_base {L : Byte} {k : MultiKind} {n acc0 : Nat} (h : classify x L = .multi k n acc0) :
    (base x L = 0 ∧ acc0 = 0) ∨ (acc0 ≤ 6 ∧ n ≤ 2) := by
  cases x with
  | a =>
    rw [classify] at h; revert h
    fun_cases classifyA L <;> rintro ⟨⟩
    exact .inl ⟨rfl, rfl⟩
  | b =>
    rw [classify] at h; revert h
    fun_cases classifyB L <;> rintro ⟨⟩
    case case2 l hdirect ht2 => exact .inr ⟨by omega, by decide⟩
    case case3 => exact .inr ⟨by decide, by decide⟩
    case case4 l hdirect ht2 ht3 hgen => exact .inl ⟨by rw [base, if_neg (by omega), if_neg ht3], rfl⟩

/-- Every value of a multi-byte class fits the 64 bits (R148). -/
theorem classify_multi_capacity {L : Byte} {k : MultiKind} {n acc0 : Nat} (h : classify x L = .multi k n acc0) :
    base x L + (acc0 + 1) * 256 ^ n ≤ 2 ^ 64 := by
  obtain ⟨-, h8, -⟩ := classify_multi_bounds h
  obtain ⟨hbase, rfl⟩ | ⟨hacc, h2⟩ := classify_multi_base h
  · have hpow : 256 ^ n ≤ 256 ^ 8 := Nat.pow_le_pow_right (by decide) h8
    omega
  · have hpow : (acc0 + 1) * 256 ^ n ≤ (6 + 1) * 256 ^ 2 :=
      Nat.mul_le_mul (by omega) (Nat.pow_le_pow_right (by decide) h2)
    have hbase := base_le x L
    omega

/-- Under the payload bounds the accumulator with one byte more, base included, stays below 2^64 (R148). -/
theorem PayloadBounds.value_lt {d : Dec} (h : PayloadBounds x d) (b : Byte) :
    base x d.lead + (d.acc.toNat * 256 + b.toNat) < 2 ^ 64 := by
  obtain ⟨k, n, acc0, hc⟩ := h.exists_class
  obtain ⟨h1, hn, hacc⟩ := (payloadBounds_of_class hc).1 h
  have hb : b.toNat < 256 := b.isLt
  calc base x d.lead + (d.acc.toNat * 256 + b.toNat)
    _ < base x d.lead + (d.acc.toNat + 1) * 256 := by omega
    _ ≤ base x d.lead + (acc0 + 1) * 256 ^ (n - d.rem.toNat) * 256 :=
      Nat.add_le_add_left (Nat.mul_le_mul_right _ hacc) _
    _ = base x d.lead + (acc0 + 1) * 256 ^ (n - d.rem.toNat + 1) := by rw [Nat.mul_assoc, ← pow_succ]
    _ ≤ base x d.lead + (acc0 + 1) * 256 ^ n :=
      Nat.add_le_add_left (Nat.mul_le_mul_left _ (Nat.pow_le_pow_right (by decide) (by omega))) _
    _ ≤ 2 ^ 64 := classify_multi_capacity hc

/-- Settles O48: the shift, the or and the sum are exact numbers reduced to 64 bits, and the bounds leave nothing to
reduce. -/
theorem noArithmeticWraps : Obligations.NoArithmeticWraps := by
  rintro s b ⟨-, -, hpayload, -⟩ hp
  have hlt := (hpayload hp).value_lt b
  rw [shiftIn_eq, ← BitVec.ofNat_add, BitVec.toNat_ofNat, BitVec.toNat_ofNat]
  exact ⟨Nat.mod_eq_of_lt (Nat.lt_of_add_left_lt hlt), Nat.mod_eq_of_lt hlt⟩

/-! ### DECODE answers whatever the source answers (R127, R129, R131) -/

/-- The payload bounds hold the count in the range the PAYLOAD step asks for (R122). -/
theorem PayloadBounds.count_range {d : Dec} (h : PayloadBounds x d) : 1 ≤ d.rem.toNat ∧ d.rem.toNat ≤ 8 := by
  obtain ⟨k, n, acc0, hc⟩ := h.exists_class
  obtain ⟨h1, hn, -⟩ := (payloadBounds_of_class hc).1 h
  obtain ⟨-, h8, -⟩ := classify_multi_bounds hc
  exact ⟨h1, hn.trans h8⟩

theorem payloadByte_answers (b : Byte) {s : RunState} (h : PayloadBounds x s.dec) :
    ∃ t, payloadByte x b s = .next t := by
  obtain ⟨h1, h8⟩ := h.count_range
  by_cases hlast : s.dec.rem = 1#4
  · exact ⟨_, payloadByte_last b hlast⟩
  · exact ⟨_, payloadByte_more b h1 h8 hlast⟩

/-- A DEC of the invariant makes every transfer. -/
theorem decTransfer_answers (r : SrcAnswer) {s : RunState} (hi : DecInv x s.dec) :
    ∃ t, decTransfer x r s = .next t := by
  by_cases hidle : s.dec.phase = .idle
  · exact ⟨s, decTransfer_idle r hidle⟩
  cases r with
  | endOfStream => exact ⟨_, decTransfer_end hidle⟩
  | err => exact ⟨_, decTransfer_err hidle⟩
  | byte b =>
    cases hp : s.dec.phase with
    | idle => exact absurd hp hidle
    | lead => exact ⟨_, decTransfer_lead b hp⟩
    | payload =>
      obtain ⟨-, hpayload, -, -⟩ := hi
      rw [decTransfer_payload b hp]
      exact payloadByte_answers b (s := srcRead (.byte b) s) (hpayload hp)

theorem decRun_answers (rs : List SrcAnswer) {s : RunState} (hi : DecInv x s.dec) : ∃ t, decRun x rs s = .next t := by
  induction rs generalizing s with
  | nil => exact ⟨s, rfl⟩
  | cons r rs ih =>
    by_cases hp : s.dec.phase = .idle
    · exact ⟨s, decRun_idle _ hp⟩
    · obtain ⟨u, hu⟩ := decTransfer_answers (x := x) r hi
      obtain ⟨t, ht⟩ := ih (decTransfer_keeps_decInv hi hu)
      exact ⟨t, by rw [decRun_cons r rs hp, hu, andThen_next, ht]⟩

/-- Settles O35: the start establishes the invariant of DEC, and every transfer keeps it. -/
theorem decodeNeverFaults : Obligations.DecodeNeverFaults := by
  intro s hidle
  obtain ⟨t, ht⟩ := decRun_answers (x := s.variant) s.source (decStart_keeps_decInv s.run)
  exact ⟨_, (exec_decode s).trans (perform_of_next ((decCommand_idle hidle).trans ht))⟩

/-! ### The DIRECT rows of variant A (R115) -/

/-- Settles O38: each row is a block of one-byte forms. -/
theorem variantADirectFormsDecode : Obligations.VariantADirectFormsDecode :=
  fun _ _ hx hp =>
    ⟨fun hw => exec_block hx hp rfl rfl rfl (of_decide_eq_true hw),
      fun hw => exec_block hx hp rfl rfl rfl (of_decide_eq_true hw),
      fun hw => exec_block hx hp rfl rfl rfl (of_decide_eq_true hw),
      fun hw => exec_block hx hp rfl rfl rfl (of_decide_eq_true hw),
      fun hw => exec_block hx hp rfl rfl rfl (of_decide_eq_true hw),
      fun hw => exec_block hx hp rfl rfl rfl (of_decide_eq_true hw),
      fun hw => exec_block hx hp rfl rfl rfl (of_decide_eq_true hw)⟩

/-! ### A run over the bytes of a source (R112, R128, R129) -/

/-- A run over two lists of answers is the run over the first and then over the second. -/
theorem decRun_append (rs rest : List SrcAnswer) (s : RunState) :
    decRun x (rs ++ rest) s = andThen (decRun x rs s) (decRun x rest) := by
  induction rs generalizing s with
  | nil => rfl
  | cons r rs ih =>
    by_cases hp : s.dec.phase = .idle
    · rw [decRun_idle _ hp, decRun_idle _ hp, andThen_next, decRun_idle _ hp]
    · rw [List.cons_append, decRun_cons _ _ hp, decRun_cons _ _ hp]
      cases decTransfer x r s with
      | next u => exact ih u
      | fault e => rfl
      | refused e => rfl

/-- What a run that has ended leaves on the source is not read (R43, R47). -/
theorem decRun_ended {rs : List SrcAnswer} {s t : RunState} (h : decRun x rs s = .next t) (hidle : t.dec.phase = .idle)
    (rest : List SrcAnswer) : decRun x (rs ++ rest) s = .next t := by
  rw [decRun_append, h, andThen_next, decRun_idle _ hidle]

/-- `t` is the end of a DECODE that was in flight in `s`: it took `answers` answers of the source, `bytes` of them bytes, and
completed with `st` and `v`; nothing but DEC, the source and the results has changed (R17, R129). -/
structure Completes (s t : RunState) (answers bytes : Nat) (st : Status) (v : Option Word) : Prop where
  run : t = { s with
    source := s.source.drop answers
    srcPos := s.srcPos + bytes
    dec := t.dec
    results := s.results ++ [.dec st v] }
  idle : t.dec.phase = .idle
  done : t.dec.done = true
  status : t.dec.status = some st
  value : t.dec.value = v

theorem afterDirect_completes (L : Byte) (s : RunState) :
    Completes s (afterDirect L s) 1 1 .ok (some (L.setWidth 64)) :=
  ⟨rfl, rfl, rfl, rfl, rfl⟩

theorem afterMulti_completes (L : Byte) {p : List Byte} {n : Nat} (hp : p.length = n) (acc0 v : Nat) (s : RunState) :
    Completes s (afterMulti L p acc0 v s) (1 + n) (1 + n) .ok (some (BitVec.ofNat 64 v)) := by
  subst hp
  exact ⟨rfl, rfl, rfl, rfl, rfl⟩

theorem afterError_completes (st : Status) (bytes : Nat) (s : RunState) :
    Completes s (afterError st bytes s) 1 bytes st none :=
  ⟨rfl, rfl, rfl, rfl, rfl⟩

/-- A run over a leading byte of a multi-byte class and its whole payload (R112, R122, R123). -/
theorem decRun_whole_payload {L : Byte} {p : List Byte} {s : RunState} {k : MultiKind} {acc0 : Nat}
    (hp : s.dec.phase = .lead) (hc : classify x L = .multi k p.length acc0) :
    decRun x ((L :: p).map .byte) s =
      .next (afterMulti L p acc0 (base x L + (acc0 * 256 ^ p.length + beval p)) s) := by
  obtain ⟨h1, h8, hacc⟩ := classify_multi_bounds hc
  have hne : p ≠ [] := List.length_pos_iff.1 h1
  have hrun := decRun_multi p.dropLast (p.getLast hne) [] hp hc (by rw [List.length_dropLast]; omega) h8 (by omega)
  rwa [List.dropLast_concat_getLast hne, List.append_nil] at hrun

/-- A run over bytes that begin with a whole value completes as `decode(s)` says (R128, R129). -/
theorem decRun_whole {bs : List Byte} {s : RunState} (hp : s.dec.phase = .lead)
    (hwhole : (decodeBytes x bs).1 ≠ .truncated) : ∃ t, decRun x (bs.map .byte) s = .next t ∧
      Completes s t (decodeBytes x bs).2.2 (decodeBytes x bs).2.2 (decodeBytes x bs).1 (decodeBytes x bs).2.1 := by
  revert hwhole
  fun_cases decodeBytes x bs <;> intro hwhole
  case case1 => exact absurd rfl hwhole
  case case2 L t hc => exact ⟨_, decRun_direct (t.map .byte) hp hc, afterDirect_completes L s⟩
  case case3 L t hc => exact ⟨_, decRun_sentinel (t.map .byte) hp hc, afterError_completes .outOfRange 1 s⟩
  case case4 => exact absurd rfl hwhole
  case case5 L t k n acc0 hc hlong =>
    have hlen : (t.take n).length = n := by rw [List.length_take]; omega
    have hrun := decRun_whole_payload (x := x) (p := t.take n) hp (hlen.symm ▸ hc)
    have hends := decRun_ended hrun rfl ((t.drop n).map .byte)
    rw [← List.map_append, List.cons_append, List.take_append_drop, ← Nat.add_assoc, hlen] at hends
    exact ⟨_, hends, afterMulti_completes L hlen acc0 _ s⟩

theorem decodeBytes_multi {L : Byte} {p : List Byte} {k : MultiKind} {n acc0 : Nat}
    (hc : classify x L = .multi k n acc0) : decodeBytes x (L :: p) =
      if p.length < n then (.truncated, none, 1 + p.length)
      else (.ok, some (BitVec.ofNat 64 (base x L + acc0 * 256 ^ n + beval (p.take n))), 1 + n) := by
  rw [decodeBytes, hc]

/-- A truncated value has no value, and all its bytes are consumed (R124, R128). -/
theorem decodeBytes_eq_of_truncated {bs : List Byte} (h : (decodeBytes x bs).1 = .truncated) :
    decodeBytes x bs = (.truncated, none, bs.length) := by
  obtain rfl | ⟨L, p, k, n, acc0, rfl, hc, hshort⟩ := decodeBytes_truncated h
  · rfl
  · rw [decodeBytes_multi hc, if_pos hshort, List.length_cons, Nat.add_comm]

theorem decodeBytes_consumed_le (x : Variant) (bs : List Byte) : (decodeBytes x bs).2.2 ≤ bs.length := by
  fun_cases decodeBytes x bs <;> simp <;> omega

/-- A run over the bytes of a truncated value takes them all and is still in flight (R130). -/
theorem decRun_truncated {bs : List Byte} {s : RunState} (hp : s.dec.phase = .lead)
    (htrunc : (decodeBytes x bs).1 = .truncated) : ∃ d : Dec, d.phase ≠ .idle ∧
      decRun x (bs.map .byte) s =
        .next { s with source := s.source.drop bs.length, srcPos := s.srcPos + bs.length, dec := d } := by
  obtain rfl | ⟨L, p, k, n, acc0, rfl, hc, hshort⟩ := decodeBytes_truncated htrunc
  · exact ⟨s.dec, by simp [hp], rfl⟩
  · rw [decRun_partial hp hc hshort, List.length_cons, Nat.add_comm p.length]
    refine ⟨_, ?_, rfl⟩
    nofun

/-! ### DECODE of a source that begins with a form (R110, R112) -/

/-- The bytes of a well-formed form are a whole value: the leading byte announces as many as there are (R52, R66). -/
theorem decodeBytes_form {i : Instr} (hw : WellFormed x i = true) (hf : i.isForm = true) :
    (decodeBytes x i.bytes).1 ≠ .truncated := by
  intro htrunc
  obtain ⟨-, -, L, p, hb, hlen⟩ := decodeForm_ok (decodeForm_bytes hw hf [])
  obtain hnil | ⟨L', p', k, n, acc0, hcons, hc, hshort⟩ := decodeBytes_truncated htrunc
  · exact bytes_ne_nil hf hnil
  · obtain ⟨rfl, rfl⟩ := List.cons.inj (hb.symm.trans hcons)
    have hannounced := leadLength_of_multi hc
    obtain hlen | ⟨rfl, -⟩ := hlen
    · have hn : p.length + 1 = 1 + n := Option.some.inj (hlen.symm.trans hannounced)
      omega
    · rw [leadLength_sentinel] at hannounced
      cases hannounced

/-- Settles O37: the bytes of the form are a whole value, so the run ends with them and what is behind is not read. -/
theorem decodeExecutesTheFormNextOnTheSource : Obligations.DecodeExecutesTheFormNextOnTheSource := by
  intro s i rest hidle hw hf hsource
  obtain ⟨t, ht, hends⟩ := decRun_whole (s := decStart s.run) rfl (decodeBytes_form hw hf)
  have hdecode : decCommand s.variant s.run = .next t := by
    rw [decCommand_idle hidle, hsource]
    exact decRun_ended ht hends.idle rest
  rw [exec_decode, exec_form hf, perform_of_next hdecode]
  exact (perform_of_next (s := s.update decStart) ht).symm

/-! ### DECODE of a source that ends or fails behind its bytes (R124, R125, R128, R129) -/

/-- The status of a DECODE that meets a failure `st` behind the bytes `bs`: the failure's own unless a whole value stands
before it (R126, R129). -/
def statusBehind (x : Variant) (st : Status) (bs : List Byte) : Status :=
  if (decodeBytes x bs).1 = .truncated then st else (decodeBytes x bs).1

theorem statusBehind_truncated (bs : List Byte) : statusBehind x .truncated bs = (decodeBytes x bs).1 := by
  rw [statusBehind]
  split_ifs with h
  · exact h.symm
  · rfl

/-- Of the source's answers, the bytes that `decode(s)` consumes are taken, and the failure with them exactly when it is
met. -/
theorem drop_of_failing_source (x : Variant) (bs : List Byte) (r : SrcAnswer) (rest : List SrcAnswer) :
    (bs.map SrcAnswer.byte ++ r :: rest).drop
        ((decodeBytes x bs).2.2 + if (decodeBytes x bs).1 = .truncated then 1 else 0) =
      (bs.drop (decodeBytes x bs).2.2).map .byte ++
        (if (decodeBytes x bs).1 = .truncated then rest else r :: rest) := by
  have hdrop : (bs.map SrcAnswer.byte ++ r :: rest).drop (decodeBytes x bs).2.2 =
      (bs.drop (decodeBytes x bs).2.2).map .byte ++ r :: rest := by
    rw [List.drop_append_of_le_length (by simpa using decodeBytes_consumed_le x bs), List.map_drop]
  rw [← List.drop_drop, hdrop]
  split_ifs with htrunc
  · simp [decodeBytes_eq_of_truncated htrunc]
  · rfl

/-- A DECODE whose source fails behind the bytes `bs`: a truncated value meets the failure with all its bytes consumed, a
whole one has ended before it (R124 to R126, R129). -/
theorem decCommand_of_failing_source {bs : List Byte} {r : SrcAnswer} {rest : List SrcAnswer} {st : Status}
    {s : RunState} (hr : r.failure = some st) (hidle : s.dec.phase = .idle)
    (hsource : s.source = bs.map .byte ++ r :: rest) : ∃ t, decCommand x s = .next t ∧
      Completes s t ((decodeBytes x bs).2.2 + if (decodeBytes x bs).1 = .truncated then 1 else 0)
        (decodeBytes x bs).2.2 (statusBehind x st bs) (decodeBytes x bs).2.1 := by
  rw [decCommand_idle hidle, hsource]
  by_cases htrunc : (decodeBytes x bs).1 = .truncated
  · obtain ⟨d, hflight, hrun⟩ := decRun_truncated (s := decStart s) rfl htrunc
    rw [decRun_append, hrun, andThen_next, decRun_cons r rest hflight, decTransfer_failure hr hflight, andThen_next,
      decRun_idle _ rfl, statusBehind, if_pos htrunc, if_pos htrunc, decodeBytes_eq_of_truncated htrunc]
    exact ⟨_, rfl, by simp [afterError, decStart], rfl, rfl, rfl, rfl⟩
  · obtain ⟨t, ht, hends⟩ := decRun_whole (s := decStart s) rfl htrunc
    rw [decRun_ended ht hends.idle, statusBehind, if_neg htrunc, if_neg htrunc]
    exact ⟨t, rfl, hends.run, hends.idle, hends.done, hends.status, hends.value⟩

theorem exec_decode_of_failing_source {bs : List Byte} {r : SrcAnswer} {rest : List SrcAnswer} {st : Status}
    {s : State} (hr : r.failure = some st) (hidle : s.dec.phase = .idle)
    (hsource : s.source = bs.map .byte ++ r :: rest) :
    ∃ d : Dec, exec .decode s = .next { s with
        source := (bs.drop (decodeBytes s.variant bs).2.2).map .byte ++
          (if (decodeBytes s.variant bs).1 = .truncated then rest else r :: rest)
        srcPos := s.srcPos + (decodeBytes s.variant bs).2.2
        dec := d
        results := s.results ++ [.dec (statusBehind s.variant st bs) (decodeBytes s.variant bs).2.1] } ∧
      d.phase = .idle ∧ d.done = true ∧ d.value = (decodeBytes s.variant bs).2.1 ∧
      d.status = some (statusBehind s.variant st bs) := by
  obtain ⟨t, ht, hrun, hphase, hdone, hstatus, hvalue⟩ := decCommand_of_failing_source (x := s.variant) hr hidle hsource
  rw [hsource, drop_of_failing_source] at hrun
  exact ⟨t.dec, (exec_decode s).trans (perform_of_next (ht.trans (congrArg _ hrun))), hphase, hdone, hvalue, hstatus⟩

/-- Settles O33: `Err` is the failure with IO_ERROR. -/
theorem decodeMeetsATransportFailure : Obligations.DecodeMeetsATransportFailure :=
  fun _ _ _ hidle hsource => exec_decode_of_failing_source rfl hidle hsource

/-- Settles O32: `End` is the failure with TRUNCATED, the status that `decode(s)` gives a value it cuts off. -/
theorem decodeComputesThePureFunction : Obligations.DecodeComputesThePureFunction := by
  intro s bs rest hidle hsource
  obtain ⟨d, hexec, hphase, hdone, hvalue, hstatus⟩ := exec_decode_of_failing_source rfl hidle hsource
  rw [statusBehind_truncated] at hexec hstatus
  exact ⟨d, hexec, hphase, hdone, hstatus, hvalue⟩

end Sys2Proof.Machine

/-! The codec as a whole (42_codec_laws.md R141, R145, R146, R149, R151): what DEC reads as a value decodes to it whatever
follows, and what decodes is such a value with bytes behind it. The statements O8, O13, O14, O12 and O17. -/

namespace Sys2Proof.Machine

open Sys2Proof

section

variable {x : Variant} {bs : List Byte} {v : Word}

/-! ### The round trip (R141) -/

/-- What DEC reads as a value decodes to it whatever follows: the leading byte settles how many bytes are read (R52, R128). -/
theorem ReadsAs.decodeBytes_append (h : ReadsAs x bs v) (t : List Byte) :
    decodeBytes x (bs ++ t) = (.ok, some v, bs.length) := by
  cases h with
  | direct L v hc hv => simp [decodeBytes, hc, hv]
  | multi L p v k acc0 hc hv =>
    have hvalue : BitVec.ofNat 64 (base x L + acc0 * 256 ^ p.length + beval p) = v := by
      rw [Nat.add_assoc, hv, BitVec.ofNat_toNat, BitVec.setWidth_eq]
    rw [List.cons_append, decodeBytes_multi hc, if_neg (by simp), List.take_left, hvalue, List.length_cons, Nat.add_comm]

theorem ReadsAs.decodeBytes_eq (h : ReadsAs x bs v) : decodeBytes x bs = (.ok, some v, bs.length) := by
  simpa using h.decodeBytes_append []

/-- A sequence has one value at most. -/
theorem ReadsAs.unique {w : Word} (hv : ReadsAs x bs v) (hw : ReadsAs x bs w) : v = w := by
  have heq := hv.decodeBytes_eq.symm.trans hw.decodeBytes_eq
  simpa using heq

theorem encodeValue_injective (x : Variant) : Function.Injective (encodeValue x) :=
  fun v w h => (encodeValue_readsAs x v).unique (h ▸ encodeValue_readsAs x w)

/-- Settles O8: DEC reads every encoding as its value. -/
theorem roundTripOfTheCodec : Obligations.RoundTripOfTheCodec := by
  refine ⟨fun x v t => ?_, fun x _ _ h => encodeValue_injective x h⟩
  rw [(encodeValue_readsAs x v).decodeBytes_append, encodeValue_length]

/-! ### What decodes is a value with bytes behind it (R128, R146) -/

/-- A DECODE that ends OK has read a value, and the bytes behind it are whatever the source held. -/
theorem decodeBytes_ok {s : List Byte} (h : (decodeBytes x s).1 = .ok) : ∃ bs v t, s = bs ++ t ∧ ReadsAs x bs v := by
  revert h
  fun_cases decodeBytes x s <;> intro h
  case case2 L t hc => exact ⟨[L], _, t, rfl, .direct L _ hc rfl⟩
  case case5 L t k n acc0 hc hlong =>
    have hlen : (t.take n).length = n := List.length_take_of_le (by omega)
    have hbound : base x L + (acc0 * 256 ^ n + beval (t.take n)) < 2 ^ 64 := by
      have hpayload := beval_lt (t.take n)
      have hcapacity := classify_multi_capacity hc
      rw [hlen] at hpayload
      rw [Nat.succ_mul] at hcapacity
      omega
    obtain ⟨v, hv⟩ := exists_word hbound
    refine ⟨L :: t.take n, v, t.drop n, ?_, .multi L _ v k acc0 (by rw [hlen, hc]) ?_⟩
    · rw [List.cons_append, List.take_append_drop]
    · rw [hlen, hv]
  all_goals cases h

/-- A proper initial part of a value lacks a byte its leading byte announces (R124, R146). -/
theorem ReadsAs.decodeBytes_take (h : ReadsAs x bs v) {k : Nat} (hk : k < bs.length) :
    decodeBytes x (bs.take k) = (.truncated, none, k) := by
  cases k with
  | zero => rfl
  | succ k =>
    cases h with
    | direct L v hc hv => simp at hk
    | multi L p v kind acc0 hc hv =>
      have hlen : (p.take k).length = k := List.length_take_of_le (by simp at hk; omega)
      rw [List.take_succ_cons, decodeBytes_multi hc, hlen, if_pos (Nat.lt_of_succ_lt_succ hk), Nat.add_comm]

/-- Settles O13: what a DECODE consumed is a value, whose leading byte settles its length (R52); an encoding that continues
another decodes to the value of both. -/
theorem noEncodingIsAnInitialPartOfAnother : Obligations.NoEncodingIsAnInitialPartOfAnother := by
  refine ⟨fun x s v c h => ?_, fun x v w t h => ?_⟩
  · obtain ⟨bs, u, r, rfl, hread⟩ := decodeBytes_ok (congrArg Prod.fst h)
    obtain ⟨rfl, rfl⟩ : u = v ∧ bs.length = c := by simpa using (hread.decodeBytes_append r).symm.trans h
    refine ⟨fun k hk => ?_, fun t => ?_⟩
    · rw [List.take_append_of_le_length hk.le, hread.decodeBytes_take hk]
    · rw [List.append_assoc, hread.decodeBytes_append]
  · have hboth := (encodeValue_readsAs x v).decodeBytes_append t
    rw [← h, (encodeValue_readsAs x w).decodeBytes_eq] at hboth
    obtain ⟨rfl, -⟩ : w = v ∧ _ := by simpa using hboth
    exact ⟨rfl, List.append_right_eq_self.1 h.symm⟩

/-- Settles O14: the value a whole sequence decodes to is the only one it can encode; the sequences that spend a payload on
the value 0 decode whole and are no encoding. -/
theorem canonicalExactlyWhenReencoded : Obligations.CanonicalExactlyWhenReencoded := by
  refine ⟨fun x s v h => ⟨?_, fun henc => ⟨v, henc⟩⟩, fun x => ?_⟩
  · rintro ⟨w, rfl⟩
    rw [(encodeValue_readsAs x w).decodeBytes_eq] at h
    obtain rfl : w = v := by simpa using h
    rfl
  · cases x with
    | a => exact ⟨[0xf7#8, 0x00#8], 0#64, by decide, by decide⟩
    | b => exact ⟨[0xf9#8, 0x00#8, 0x00#8, 0x00#8], 0#64, by decide, by decide⟩

/-! ### The leading byte of an encoding (R52, R145) -/

theorem ReadsAs.exists_lead (h : ReadsAs x bs v) :
    ∃ L p, bs = L :: p ∧ leadLength x L = some (p.length + 1) ∧ L.toNat ≤ 0xfe := by
  obtain ⟨L, p, rfl⟩ : ∃ L p, bs = L :: p := by cases h <;> exact ⟨_, _, rfl⟩
  have hlen : leadLength x L = some (p.length + 1) := h.announced_length
  refine ⟨L, p, rfl, hlen, ?_⟩
  have hne : L ≠ 0xff#8 := by
    rintro rfl
    rw [leadLength_sentinel] at hlen
    cases hlen
  bv_omega

/-- Settles O12: the leading byte of an encoding announces a length, and the sentinel has none (R52). -/
theorem sentinelNeverProduced : Obligations.SentinelNeverProduced := by
  intro x v
  obtain ⟨L, p, henc, -, hL⟩ := (encodeValue_readsAs x v).exists_lead
  exact ⟨L, p, henc, hL⟩

end

/-! ### The two variants (R151) -/

/-- Outside 0xf1 to 0xf8 a leading byte means the same in both variants (R67). -/
theorem classify_variants {L : Byte} (h : L.toNat ≤ 0xf0 ∨ 0xf9 ≤ L.toNat) :
    classify .a L = classify .b L ∧ base .a L = base .b L := by
  have hbase : ¬(0xf1 ≤ L.toNat ∧ L.toNat ≤ 0xf7) := by omega
  have ht3 : L.toNat ≠ 0xf8 := by omega
  refine ⟨?_, by simp [base, hbase, ht3]⟩
  obtain hlo | hhi := h
  · have hdirect : L.toNat ≤ 0xf6 := by omega
    simp [classify, classifyA, classifyB, hlo, hdirect]
  · have hdirectA : ¬L.toNat ≤ 0xf6 := by omega
    have hdirectB : ¬L.toNat ≤ 0xf0 := by omega
    have ht2 : ¬L.toNat ≤ 0xf7 := by omega
    simp [classify, classifyA, classifyB, hdirectA, hdirectB, ht2, ht3]

theorem decodeBytes_variants {L : Byte} (t : List Byte) (h : L.toNat ≤ 0xf0 ∨ 0xf9 ≤ L.toNat) :
    decodeBytes .a (L :: t) = decodeBytes .b (L :: t) := by
  obtain ⟨hclass, hbase⟩ := classify_variants h
  rw [decodeBytes, decodeBytes, hclass, hbase]

/-- The value of a multi-byte class (R61, R123). -/
theorem ReadsAs.value_of_multi {x : Variant} {L : Byte} {p : List Byte} {v : Word} {k : MultiKind} {n acc0 : Nat}
    (h : ReadsAs x (L :: p) v) (hc : classify x L = .multi k n acc0) :
    v.toNat = base x L + (acc0 * 256 ^ p.length + beval p) := by
  cases h with
  | direct _ _ hc' => cases hc.symm.trans hc'
  | multi _ _ _ k' acc0' hc' hv =>
    cases hc.symm.trans hc'
    exact hv.symm

/-- No sequence led by 0xf1 to 0xf8 is the same value in both variants: up to 0xf6 the lengths differ, 0xf7 and 0xf8
announce the same length and different values. -/
theorem ReadsAs.not_variants {L : Byte} {p : List Byte} {v : Word} (hlo : 0xf1 ≤ L.toNat) (hhi : L.toNat ≤ 0xf8)
    (ha : ReadsAs .a (L :: p) v) : ¬ ReadsAs .b (L :: p) v := by
  intro hb
  have hlen : leadLength .a L = leadLength .b L := ha.announced_length.trans hb.announced_length.symm
  obtain hdirect | rfl | rfl : L.toNat ≤ 0xf6 ∨ L = 0xf7#8 ∨ L = 0xf8#8 := by bv_omega
  · simp only [leadLength] at hlen
    rw [if_pos hdirect, if_neg (by omega), if_pos (by omega)] at hlen
    cases hlen
  · have hva := ha.value_of_multi (k := .gen) (n := 1) (acc0 := 0) rfl
    have hvb := hb.value_of_multi (k := .t2) (n := 1) (acc0 := 6) rfl
    rw [show base .a 0xf7#8 = 0 from rfl] at hva
    rw [show base .b 0xf7#8 = 0xf0 from rfl] at hvb
    omega
  · have hva := ha.value_of_multi (k := .gen) (n := 2) (acc0 := 0) rfl
    have hvb := hb.value_of_multi (k := .t3) (n := 2) (acc0 := 0) rfl
    rw [show base .a 0xf8#8 = 0 from rfl] at hva
    rw [show base .b 0xf8#8 = 0x7f0 from rfl] at hvb
    omega

theorem decodeBytes_not_variants {L : Byte} {t : List Byte} (hlo : 0xf1 ≤ L.toNat) (hhi : L.toNat ≤ 0xf8)
    (hok : (decodeBytes .a (L :: t)).1 = .ok) : decodeBytes .a (L :: t) ≠ decodeBytes .b (L :: t) := by
  intro heq
  obtain ⟨bs, v, r, hbs, ha⟩ := decodeBytes_ok hok
  obtain ⟨bs', v', r', hbs', hb⟩ := decodeBytes_ok (heq ▸ hok)
  obtain ⟨rfl, hlen⟩ : v = v' ∧ bs.length = bs'.length := by
    have hdecodeA := ha.decodeBytes_append r
    have hdecodeB := hb.decodeBytes_append r'
    rw [← hbs, heq] at hdecodeA
    rw [← hbs'] at hdecodeB
    simpa using hdecodeA.symm.trans hdecodeB
  obtain ⟨rfl, -⟩ := List.append_inj (hbs.symm.trans hbs') hlen
  obtain ⟨M, p, rfl, -, -⟩ := ha.exists_lead
  obtain ⟨rfl, -⟩ := List.cons.inj hbs
  exact ha.not_variants hlo hhi hb

/-- Between the direct values of variant B and its general forms the encoding of variant B is led by 0xf1 to 0xf8 (R57 to R59). -/
theorem encodeB_dense {v : Word} (hlo : 0xf0 < v.toNat) (hhi : v.toNat ≤ 0x107ef) :
    ∃ L p, encodeB v = L :: p ∧ 0xf1 ≤ L.toNat ∧ L.toNat ≤ 0xf8 := by
  by_cases ht2 : v.toNat ≤ 0x7ef
  · exact ⟨_, _, encodeB_t2 hlo ht2, by rw [BitVec.toNat_ofNat]; omega, by rw [BitVec.toNat_ofNat]; omega⟩
  · exact ⟨_, _, encodeB_t3 (by omega) hhi, by decide, by decide⟩

theorem encodeValue_variants (v : Word) :
    encodeValue .a v = encodeValue .b v ↔ (v.toNat ≤ 0xf0 ∨ 0x107f0 ≤ v.toNat) := by
  constructor
  · intro heq
    by_contra hdense
    obtain ⟨L, p, henc, hlo, hhi⟩ := encodeB_dense (v := v) (by omega) (by omega)
    have ha : ReadsAs .a (L :: p) v := (heq.trans henc) ▸ encodeValue_readsAs .a v
    have hb : ReadsAs .b (L :: p) v := henc ▸ encodeB_readsAs v
    exact ha.not_variants hlo hhi hb
  · rw [encodeValue, encodeValue]
    rintro (hdirect | hgeneral)
    · rw [encodeA_direct (by omega), encodeB_direct hdirect]
    · rw [encodeA_general (by omega), encodeB_general (by omega)]

/-- Settles O17: outside the dense tiers both encoders and both parsers do the same, and inside no sequence is the same value
in both. -/
theorem variantsAgreeOutsideTheDenseTiers : Obligations.VariantsAgreeOutsideTheDenseTiers :=
  ⟨encodeValue_variants, fun _ => decodeBytes_variants, fun _ _ => decodeBytes_not_variants⟩

end Sys2Proof.Machine

/-! The order of the encodings (42_codec_laws.md R142 to R144). One value to the next is the only comparison made class by
class; how encodings compare and how their lengths grow follow from it by induction on the distance. The statements O11, O9
and O10. -/

namespace Sys2Proof.Machine

open Sys2Proof

/-! ### The payload of neighbouring values (R7) -/

/-- All bytes of the payload of `d` are 0xff when `d + 1` carries out of it. -/
theorem be_allOnes_of_carry {d n : Nat} (h : 256 ^ n ∣ d + 1) : ∀ b ∈ be d n, b = 0xff#8 := by
  induction n with
  | zero => nofun
  | succ n ih =>
    have htail : 256 ^ n ∣ d + 1 := (pow_dvd_pow 256 n.le_succ).trans h
    have hhead : 256 ∣ d / 256 ^ n + 1 := by
      rw [← Nat.succ_div_of_dvd htail]
      exact Nat.dvd_div_of_mul_dvd h
    intro b hb
    obtain rfl | hb := List.mem_cons.1 hb
    · apply BitVec.eq_of_toNat_eq
      rw [BitVec.toNat_ofNat, BitVec.toNat_ofNat]
      omega
    · exact ih htail b hb

/-- The payload integer steps by one when `d + 1` does not carry out of it. -/
theorem beval_be_succ {d n : Nat} (h : ¬256 ^ n ∣ d + 1) : beval (be (d + 1) n) = beval (be d n) + 1 := by
  have hquotient := Nat.succ_div_of_not_dvd h
  have hnow := Nat.div_add_mod d (256 ^ n)
  have hnext := Nat.div_add_mod (d + 1) (256 ^ n)
  rw [hquotient] at hnext
  rw [beval_be, beval_be]
  omega

/-! ### Encodings that differ by one (R144) -/

/-- `t` differs from `s` by one: in the payload integer, or in the leading byte with the payload of `s` all ones (R144). -/
def DifferByOne (s t : List Byte) : Prop :=
  ∃ (L M : Byte) (p q : List Byte), s = L :: p ∧ t = M :: q ∧
    ((M = L ∧ q.length = p.length ∧ beval q = beval p + 1) ∨ (M.toNat = L.toNat + 1 ∧ ∀ b ∈ p, b = 0xff#8))

theorem differByOne_payload (L : Byte) {d n : Nat} (h : ¬256 ^ n ∣ d + 1) :
    DifferByOne (L :: be d n) (L :: be (d + 1) n) :=
  ⟨L, L, _, _, rfl, rfl, .inl ⟨rfl, by rw [be_length, be_length], beval_be_succ h⟩⟩

theorem differByOne_lead {L M : Byte} {d n : Nat} (q : List Byte) (hM : M.toNat = L.toNat + 1)
    (h : 256 ^ n ∣ d + 1) : DifferByOne (L :: be d n) (M :: q) :=
  ⟨L, M, _, q, rfl, rfl, .inr ⟨hM, be_allOnes_of_carry h⟩⟩

/-- A tier counts in its leading byte and payload together: `l` is its first leading byte, `n` its payload width, `d` the
offset of the value in the tier. -/
theorem differByOne_tier {l d n : Nat} (hl : l + (d + 1) / 256 ^ n < 256) :
    DifferByOne (BitVec.ofNat 8 (l + d / 256 ^ n) :: be d n) (BitVec.ofNat 8 (l + (d + 1) / 256 ^ n) :: be (d + 1) n) := by
  by_cases hcarry : 256 ^ n ∣ d + 1
  · rw [Nat.succ_div_of_dvd hcarry] at hl ⊢
    refine differByOne_lead _ ?_ hcarry
    generalize d / 256 ^ n = k at hl ⊢
    rw [BitVec.toNat_ofNat, BitVec.toNat_ofNat]
    omega
  · rw [Nat.succ_div_of_not_dvd hcarry]
    exact differByOne_payload _ hcarry

/-- The width stays, or it steps by one because the next value carries out of it (R82). -/
theorem bewidth_succ {v : Nat} (hpos : 1 ≤ v) (hlt : v + 1 < 2 ^ 64) :
    (bewidth (v + 1) = bewidth v ∧ ¬256 ^ bewidth v ∣ v + 1) ∨
      (bewidth (v + 1) = bewidth v + 1 ∧ 256 ^ bewidth v ∣ v + 1) := by
  obtain ⟨h1, -, hmin, hmax⟩ := bewidth_bounds hpos (Nat.lt_of_succ_lt hlt)
  obtain hsame | hnext : v + 1 < 256 ^ bewidth v ∨ v + 1 = 256 ^ bewidth v := by omega
  · have hwidth : bewidth v - 1 + 1 = bewidth v := Nat.sub_add_cancel h1
    refine .inl ⟨?_, Nat.not_dvd_of_pos_of_lt v.succ_pos hsame⟩
    rw [bewidth_eq hlt (Nat.le_succ_of_le hmin) (hwidth.symm ▸ hsame), hwidth]
  · refine .inr ⟨bewidth_eq hlt hnext.ge ?_, hnext.symm.dvd⟩
    rw [hnext]
    exact Nat.pow_lt_pow_right (by decide) (Nat.lt_succ_self _)

/-- The general forms of neighbouring values (R85, R93). -/
theorem differByOne_general {v : Nat} (hpos : 1 ≤ v) (hlt : v + 1 < 2 ^ 64) :
    DifferByOne (BitVec.ofNat 8 (0xf6 + bewidth v) :: be v (bewidth v))
      (BitVec.ofNat 8 (0xf6 + bewidth (v + 1)) :: be (v + 1) (bewidth (v + 1))) := by
  obtain ⟨hwidth, hcarry⟩ | ⟨hwidth, hcarry⟩ := bewidth_succ hpos hlt
  · rw [hwidth]
    exact differByOne_payload _ hcarry
  · refine differByOne_lead _ ?_ hcarry
    have h8 := bewidth_le_eight (v + 1)
    rw [BitVec.toNat_ofNat, BitVec.toNat_ofNat]
    omega

/-- The direct values of either variant (R84, R90). -/
theorem differByOne_direct {d : Nat} (q : List Byte) (h : d + 1 < 256) :
    DifferByOne [BitVec.ofNat 8 d] (BitVec.ofNat 8 (d + 1) :: q) := by
  refine differByOne_lead (d := d) (n := 0) q ?_ (by simp)
  rw [BitVec.toNat_ofNat, BitVec.toNat_ofNat]
  omega

theorem encodeA_differByOne {v w : Word} (h : w.toNat = v.toNat + 1) : DifferByOne (encodeA v) (encodeA w) := by
  have hw := w.isLt
  by_cases hdirect : w.toNat ≤ 0xf6
  · rw [encodeA_direct (by omega), encodeA_direct hdirect, h]
    exact differByOne_direct [] (by omega)
  by_cases hlast : v.toNat = 0xf6
  · rw [encodeA_direct (by omega), encodeA_general (by omega), h, hlast]
    exact differByOne_direct _ (by decide)
  · rw [encodeA_general (by omega), encodeA_general (by omega), h]
    exact differByOne_general (by omega) (by omega)

/-- The second byte of T2 is the payload of the offset in the tier (R91). -/
theorem encodeB_t2_offset {v : Word} {d : Nat} (hv : v.toNat = 0xf0 + d) (hpos : 0 < d) (hd : d < 0x700) :
    encodeB v = BitVec.ofNat 8 (0xf1 + d / 256 ^ 1) :: be d 1 := by
  have hbyte : BitVec.ofNat 8 (d % 256) = BitVec.ofNat 8 (d / 256 ^ 0) := by
    apply BitVec.eq_of_toNat_eq
    simp
  rw [encodeB_t2 (by omega) (by omega), hv, Nat.add_sub_cancel_left, hbyte, pow_one]
  rfl

theorem encodeB_differByOne {v w : Word} (h : w.toNat = v.toNat + 1) : DifferByOne (encodeB v) (encodeB w) := by
  have hw := w.isLt
  by_cases hdirect : w.toNat ≤ 0xf0
  · rw [encodeB_direct (by omega), encodeB_direct hdirect, h]
    exact differByOne_direct [] (by omega)
  by_cases hdirectLast : v.toNat = 0xf0
  · rw [encodeB_direct (by omega), encodeB_t2_offset (d := 1) (by omega) (by decide) (by decide), hdirectLast]
    exact differByOne_direct _ (by decide)
  by_cases ht2 : w.toNat ≤ 0x7ef
  · obtain ⟨d, hd⟩ := Nat.exists_eq_add_of_le (show 0xf0 ≤ v.toNat by omega)
    rw [encodeB_t2_offset hd (by omega) (by omega), encodeB_t2_offset (d := d + 1) (by omega) (by omega) (by omega)]
    exact differByOne_tier (by omega)
  by_cases ht2Last : v.toNat = 0x7ef
  · rw [encodeB_t2_offset (d := 0x6ff) ht2Last (by decide) (by decide), encodeB_t3 (by omega) (by omega)]
    exact differByOne_lead _ (by decide) (by decide)
  by_cases ht3 : w.toNat ≤ 0x107ef
  · have hoffset : w.toNat - 0x7f0 = v.toNat - 0x7f0 + 1 := by omega
    rw [encodeB_t3 (by omega) (by omega), encodeB_t3 (by omega) ht3, hoffset]
    exact differByOne_payload _ (Nat.not_dvd_of_pos_of_lt (Nat.succ_pos _) (by omega))
  by_cases ht3Last : v.toNat = 0x107ef
  · rw [encodeB_t3 (by omega) (by omega), encodeB_general (by omega), h, ht3Last]
    exact differByOne_lead _ (by decide) (by decide)
  · rw [encodeB_general (by omega), encodeB_general (by omega), h]
    exact differByOne_general (by omega) (by omega)

theorem encodeValue_differByOne (x : Variant) {v w : Word} (h : w.toNat = v.toNat + 1) :
    DifferByOne (encodeValue x v) (encodeValue x w) := by
  cases x with
  | a => exact encodeA_differByOne h
  | b => exact encodeB_differByOne h

/-- Settles O11: `DifferByOne` is what the statement says of the two encodings. -/
theorem neighboursDifferByOne : Obligations.NeighboursDifferByOne :=
  fun x _ _ h => encodeValue_differByOne x h

/-! ### The order (R8, R142) -/

/-- The order of R8 is the lexicographic order of the bytes as numbers. -/
theorem lexLt_iff (s t : List Byte) : lexLt s t = true ↔ s.map BitVec.toNat < t.map BitVec.toNat := by
  fun_induction lexLt s t with
  | case1 s => simp
  | case2 b t => simp
  | case3 a s b t ih => simp [List.cons_lt_cons_iff, ih, BitVec.toNat_inj]

theorem lexLt_trans {s t u : List Byte} (hst : lexLt s t = true) (htu : lexLt t u = true) : lexLt s u = true := by
  rw [lexLt_iff] at *
  exact hst.trans htu

theorem lexLt_irrefl (s : List Byte) : ¬lexLt s s = true := by
  rw [lexLt_iff]
  exact lt_irrefl _

/-- Payloads of one length compare as the integers they read as (R7, R8). -/
theorem lexLt_of_beval_lt {s t : List Byte} (hlen : t.length = s.length) (h : beval s < beval t) : lexLt s t = true := by
  fun_induction lexLt s t with
  | case1 s =>
    obtain rfl := List.length_eq_zero_iff.1 hlen.symm
    cases h
  | case2 b t => rfl
  | case3 a s b t ih =>
    have hlen : t.length = s.length := Nat.succ.inj hlen
    simp only [beval, hlen] at h
    simp only [Bool.or_eq_true, Bool.and_eq_true, decide_eq_true_eq]
    obtain hlt | heq | hgt := Nat.lt_trichotomy a.toNat b.toNat
    · exact .inl hlt
    · rw [heq] at h
      exact .inr ⟨BitVec.eq_of_toNat_eq heq, ih hlen (Nat.lt_of_add_lt_add_left h)⟩
    · have ht := beval_lt t
      have hhead : (b.toNat + 1) * 256 ^ s.length ≤ a.toNat * 256 ^ s.length := Nat.mul_le_mul_right _ hgt
      rw [Nat.succ_mul] at hhead
      rw [hlen] at ht
      omega

theorem lexLt_of_differByOne {s t : List Byte} (h : DifferByOne s t) : lexLt s t = true := by
  obtain ⟨L, M, p, q, rfl, rfl, ⟨rfl, hlen, hvalue⟩ | ⟨hlead, -⟩⟩ := h
  · have hpayload := lexLt_of_beval_lt hlen (hvalue ▸ Nat.lt_succ_self _)
    simp [lexLt, hpayload]
  · simp [lexLt, hlead]

/-! ### From neighbouring values to any two -/

/-- A transitive relation that holds from each encoding to the next holds along the values. -/
theorem encodeValue_rel_of_lt {x : Variant} {r : List Byte → List Byte → Prop}
    (htrans : ∀ s t u, r s t → r t u → r s u)
    (hnext : ∀ v w : Word, w.toNat = v.toNat + 1 → r (encodeValue x v) (encodeValue x w)) {v w : Word}
    (h : v.toNat < w.toNat) : r (encodeValue x v) (encodeValue x w) := by
  obtain ⟨k, hk⟩ := Nat.exists_eq_add_of_lt h
  induction k generalizing w with
  | zero => exact hnext v w hk
  | succ k ih =>
    obtain ⟨u, hu⟩ := exists_word (n := v.toNat + k + 1) (by omega)
    exact htrans _ _ _ (ih (by omega) hu) (hnext u w (by omega))

theorem encodeValue_lexLt_of_lt {x : Variant} {v w : Word} (h : v.toNat < w.toNat) :
    lexLt (encodeValue x v) (encodeValue x w) = true :=
  encodeValue_rel_of_lt (r := fun s t => lexLt s t = true) (fun _ _ _ => lexLt_trans)
    (fun _ _ hnext => lexLt_of_differByOne (encodeValue_differByOne x hnext)) h

/-- Settles O9: neighbours are in order, so all are; and the order being strict, nothing else is. -/
theorem encodingPreservesOrder : Obligations.EncodingPreservesOrder := by
  refine fun x v w => ⟨⟨encodeValue_lexLt_of_lt, fun hlex => ?_⟩, (encodeValue_injective x).eq_iff.symm⟩
  obtain hlt | heq | hgt := Nat.lt_trichotomy v.toNat w.toNat
  · exact hlt
  · obtain rfl := BitVec.eq_of_toNat_eq heq
    exact absurd hlex (lexLt_irrefl _)
  · exact absurd (lexLt_trans hlex (encodeValue_lexLt_of_lt hgt)) (lexLt_irrefl _)

/-! ### The length (R143) -/

/-- The next leading byte announces at least as many bytes (R52). -/
theorem leadLength_succ_le {x : Variant} {L M : Byte} {m n : Nat} (hL : leadLength x L = some m)
    (hM : leadLength x M = some n) (h : M.toNat = L.toNat + 1) : m ≤ n := by
  cases x with
  | a => grind [leadLength]
  | b => grind [leadLength]

theorem encodeValue_length_succ {x : Variant} {v w : Word} (h : w.toNat = v.toNat + 1) :
    (encodeValue x v).length ≤ (encodeValue x w).length := by
  obtain ⟨L, M, p, q, hv, hw, ⟨-, hlen, -⟩ | ⟨hlead, -⟩⟩ := encodeValue_differByOne x h
  · rw [hv, hw, List.length_cons, List.length_cons, hlen]
  · have hL := (encodeValue_readsAs x v).announced_length
    have hM := (encodeValue_readsAs x w).announced_length
    rw [hv] at hL ⊢
    rw [hw] at hM ⊢
    exact leadLength_succ_le hL hM hlead

/-- Settles O10: the length does not drop from one value to the next. -/
theorem encodedLengthIsMonotone : Obligations.EncodedLengthIsMonotone := by
  intro x v w h
  obtain hlt | heq := Nat.lt_or_eq_of_le h
  · exact encodeValue_rel_of_lt (r := fun s t => s.length ≤ t.length) (fun _ _ _ => le_trans)
      (fun _ _ => encodeValue_length_succ) hlt
  · rw [BitVec.eq_of_toNat_eq heq]

end Sys2Proof.Machine

/-! Safety of the step and of whole runs (60_exceptions.md R165, R174): what a step performs, why nothing it performs is
refused, and why nothing but a read faults under the invariant. Then the statements O51 and O52. -/

namespace Sys2Proof.Machine

open Sys2Proof

variable {x : Variant}

/-! ### What a step performs -/

/-- Whatever its outcome, a step is a run of DEC, a run of ENC, waiting, or what happens at the event taken (log 7). -/
theorem step_performs (s : State) :
    (∃ rs, step s = perform (decRun · rs) s) ∨ (∃ rs, step s = perform (encRun · rs) s) ∨ step s = .next s ∨
    ∃ e es, takeEvent s.run = some (e, es) ∧ step s = perform (happen · e) { s with events := es } := by
  cases hd : decReady s.run with
  | true => exact .inl (step_of_decReady hd)
  | false =>
    cases he : encReady s.run with
    | true => exact .inr (.inl (step_of_encReady hd he))
    | false =>
      cases ht : takeEvent s.run with
      | none => exact .inr (.inr (.inl (step_of_no_event hd he ht)))
      | some p => exact .inr (.inr (.inr ⟨p.1, p.2, rfl, step_of_event hd he ht⟩))

/-! ### Nothing is refused (R174) -/

theorem encCommand_not_refused (v : Word) (s : RunState) (r : Refusal) : encCommand x v s ≠ .refused r := by
  cases hp : s.enc.phase with
  | idle => exact encCommand_idle v hp ▸ encRun_not_refused _ _ r
  | emit => simp [encCommand_busy v hp]

theorem decCommand_not_refused (s : RunState) (r : Refusal) : decCommand x s ≠ .refused r := by
  by_cases hp : s.dec.phase = .idle
  · exact decCommand_idle hp ▸ decRun_not_refused _ _ r
  · simp [decCommand_busy hp]

theorem observe_not_refused (f : ResultField) (s : RunState) (r : Refusal) : observe x f s ≠ .refused r := by
  unfold observe
  split <;> simp

theorem happen_not_refused (e : Event) (s : RunState) (r : Refusal) : happen x e s ≠ .refused r := by
  cases e with
  | encStart v => exact encCommand_not_refused v s r
  | decStart => exact decCommand_not_refused s r
  | sinkReady answers => exact nofun
  | sourceReady answers => exact nofun
  | reset b => exact nofun
  | read f => exact observe_not_refused f s r

/-- Settles O51: of what a step performs, a unit's run and what happens at an event are never refused. -/
theorem noStepIsRefused : Obligations.NoStepIsRefused := by
  intro s r
  obtain ⟨rs, h⟩ | ⟨rs, h⟩ | h | ⟨e, es, -, h⟩ := step_performs s <;> rw [h]
  · exact perform_not_refused (decRun_not_refused rs _ r)
  · exact perform_not_refused (encRun_not_refused rs _ r)
  · exact nofun
  · exact perform_not_refused (happen_not_refused e _ r)

/-! ### Under the invariant every operation but a read answers (R148, R165) -/

/-- Under the invariant the packer's index names a byte, so its step answers (R97). -/
theorem encTransfer_answers (r : SinkAnswer) {s : RunState} (hp : s.enc.phase = .emit) (hi : EncInv x s.enc) :
    ∃ t, encTransfer x r s = .next t := by
  obtain ⟨hemit, -, -⟩ := hi
  obtain ⟨-, hidx⟩ := hemit hp
  cases r with
  | err => exact ⟨_, encTransfer_failed hidx⟩
  | ok =>
    obtain hmore | hlast := Nat.lt_or_eq_of_le (Nat.succ_le_of_lt hidx)
    · exact ⟨_, encTransfer_accepted hmore⟩
    · exact ⟨_, encTransfer_last hlast⟩

theorem encRun_answers (rs : List SinkAnswer) {s : RunState} (hi : EncInv x s.enc) : ∃ t, encRun x rs s = .next t := by
  induction rs generalizing s with
  | nil => exact ⟨s, rfl⟩
  | cons r rs ih =>
    cases hp : s.enc.phase with
    | idle => exact ⟨s, encRun_idle _ hp⟩
    | emit =>
      obtain ⟨u, hu⟩ := encTransfer_answers r hp hi
      obtain ⟨t, ht⟩ := ih (encTransfer_keeps_encInv hp hi hu)
      exact ⟨t, by rw [encRun_cons r rs hp, hu, andThen_next, ht]⟩

/-- A start command answers in every state: an idle ENC's start establishes the invariant, a busy one does nothing. -/
theorem encCommand_answers (v : Word) (s : RunState) : ∃ t, encCommand x v s = .next t := by
  cases hp : s.enc.phase with
  | idle => exact encCommand_idle (x := x) v hp ▸ encRun_answers _ (encStart_keeps_encInv v s)
  | emit => exact ⟨s, encCommand_busy v hp⟩

theorem decCommand_answers (s : RunState) : ∃ t, decCommand x s = .next t := by
  by_cases hp : s.dec.phase = .idle
  · exact decCommand_idle (x := x) hp ▸ decRun_answers _ (decStart_keeps_decInv s)
  · exact ⟨s, decCommand_busy hp⟩

/-- Only a read of a result field can fault, whatever the state (R19, R165). -/
theorem happen_answers {e : Event} (s : RunState) (hread : ∀ f, e ≠ .read f) : ∃ t, happen x e s = .next t := by
  cases e with
  | encStart v => exact encCommand_answers v s
  | decStart => exact decCommand_answers s
  | sinkReady answers => exact ⟨_, rfl⟩
  | sourceReady answers => exact ⟨_, rfl⟩
  | reset b => exact ⟨_, rfl⟩
  | read f => exact absurd rfl (hread f)

/-! ### The events of a run without reads -/

/-- The event taken was pending, and what stays pending was so before. -/
theorem NoReads.of_takeEvent {s : RunState} {e : Event} {es : List Event} (h : NoReads s.events)
    (ht : takeEvent s = some (e, es)) : (∀ f, e ≠ .read f) ∧ NoReads es := by
  obtain ⟨pre, post, hev, rfl, -⟩ := firstFree_eq_some ht
  rw [hev] at h
  have hkept : pre ++ post ⊆ pre ++ e :: post := ((List.sublist_cons_self e post).append_left pre).subset
  exact ⟨h e (by simp), fun a ha => h a (hkept ha)⟩

/-- No step adds an event, a reset included. -/
theorem step_keeps_noReads {s t : State} (h : NoReads s.events) (hstep : step s = .next t) : NoReads t.events := by
  cases (step_moves hstep).1 with
  | dec _ rs hrun => exact (decRun_frame rs hrun).events ▸ h
  | enc _ _ rs hrun => exact (encRun_frame rs hrun).events ▸ h
  | wait _ _ _ hst => exact hst ▸ h
  | event _ _ e es ht hrun => exact happen_events hrun ▸ (h.of_takeEvent ht).2

/-- Progress: under the invariant a step without a read to make answers (R165). -/
theorem step_answers {s : State} (hi : CoreInv s) (hreads : NoReads s.events) : ∃ t, step s = .next t := by
  obtain ⟨henc, hdec⟩ := hi
  obtain ⟨rs, h⟩ | ⟨rs, h⟩ | h | ⟨e, es, ht, h⟩ := step_performs s
  · obtain ⟨t, hrun⟩ := decRun_answers rs hdec
    exact ⟨_, h.trans (perform_of_next hrun)⟩
  · obtain ⟨t, hrun⟩ := encRun_answers rs henc
    exact ⟨_, h.trans (perform_of_next hrun)⟩
  · exact ⟨s, h⟩
  · obtain ⟨t, hrun⟩ := happen_answers (x := s.variant) { s.run with events := es } (hreads.of_takeEvent ht).1
    exact ⟨_, h.trans (perform_of_next hrun)⟩

/-- A property under which every step answers and which every step keeps makes runs of every length answer, and holds at
their end. -/
theorem runSteps_of_invariant {P : State → Prop} (hprogress : ∀ s, P s → ∃ t, step s = .next t)
    (hkeeps : ∀ s t, P s → step s = .next t → P t) (n : Nat) {s : State} (hs : P s) :
    ∃ t, runSteps n s = .next t ∧ P t := by
  induction n generalizing s with
  | zero => exact ⟨s, rfl, hs⟩
  | succ n ih =>
    obtain ⟨u, hu⟩ := hprogress s hs
    rw [runSteps_succ hu]
    exact ih (hkeeps s u hs hu)

/-- Settles O52: the invariant, with no read to come, makes every step answer, and every step keeps both. -/
theorem runsWithoutReadsNeverFault : Obligations.RunsWithoutReadsNeverFault := by
  intro n s hi hreads
  obtain ⟨t, ht, hinv, -⟩ := runSteps_of_invariant (P := fun s => CoreInv s ∧ NoReads s.events)
    (fun s ⟨hi, hreads⟩ => step_answers hi hreads)
    (fun s t ⟨hi, hreads⟩ h => ⟨everyStepKeepsTheInvariant s t hi h, step_keeps_noReads hreads h⟩) n ⟨hi, hreads⟩
  exact ⟨t, ht, hinv⟩

end Sys2Proof.Machine

/-! Reset and the bound on an operation's transfers (70_reset_and_hazards.md R185, R186, R199): the two outcomes of a transfer
outstanding at reset, and the number of transfers a unit in flight still has to make. The statements O54 and O56. -/

namespace Sys2Proof.Machine

open Sys2Proof

variable {x : Variant}

/-! ### Reset (R185, R186) -/

/-- The reset is nobody's event, so it never waits. -/
theorem takeEvent_reset {s : RunState} {b : Option Byte} {es : List Event} (hev : s.events = .reset b :: es) :
    takeEvent s = some (.reset b, es) := by
  rw [takeEvent, hev]
  exact firstFree_free es (waits_of_no_unit s [] rfl)

/-- With no transfer to make, a reset that is next happens (log 7). -/
theorem step_reset {s : State} {b : Option Byte} {es : List Event} (hd : decReady s.run = false)
    (he : encReady s.run = false) (hev : s.events = .reset b :: es) :
    step s = .next { s with run := resetCore s.variant b { s.run with events := es } } := by
  rw [step_of_event hd he (takeEvent_reset hev)]
  exact perform_of_next rfl

/-- Only the byte that ENC presents in EMIT may have been accepted (U9). -/
theorem sinkAfterReset_cases (x : Variant) (s : RunState) :
    sinkAfterReset x s = s.sink ∨
      (s.enc.phase = .emit ∧ ∃ c, packerByte x s = some c ∧ sinkAfterReset x s = s.sink ++ [c]) := by
  fun_cases sinkAfterReset x s
  case case1 c hc hp _ => exact .inr ⟨hp, c, hc, rfl⟩
  case case2 => exact .inl rfl
  case case3 => exact .inl rfl

/-- A byte that was being delivered is still to come, or a DECODE in flight has consumed it (U9). -/
theorem sourceAfterReset_some_cases (c : Byte) (s : RunState) :
    sourceAfterReset (some c) s = (s.source ++ [.byte c], s.srcPos) ∨
      (s.dec.phase ≠ .idle ∧ sourceAfterReset (some c) s = (s.source, s.srcPos + 1)) := by
  rw [sourceAfterReset]
  split
  · rename_i hmoved
    exact .inr ⟨of_decide_eq_true (Bool.and_eq_true_iff.1 hmoved).1, rfl⟩
  · exact .inl rfl

/-- Settles O54: the step is the reset of the core, and each port has one of the two outcomes. -/
theorem resetAbandonsWhatIsInFlight : Obligations.ResetAbandonsWhatIsInFlight := by
  intro s b es hd he hev
  refine ⟨_, step_reset hd he hev, rfl, rfl, rfl, rfl, rfl, rfl, rfl, rfl, rfl, rfl, rfl, rfl,
    sinkAfterReset_cases s.variant { s.run with events := es }, ?_, ?_⟩
  · rintro rfl
    exact ⟨rfl, rfl⟩
  · rintro c rfl
    simpa [Prod.ext_iff] using sourceAfterReset_some_cases c { s.run with events := es }

/-! ### The transfers an operation has still to make (R38, R199) -/

/-- The most transfers DEC may still make: a leading byte and eight bytes of payload, or the payload that is missing. -/
def Dec.toCome (d : Dec) : Nat :=
  match d.phase with
  | .idle => 0
  | .lead => 9
  | .payload => d.rem.toNat

/-- The transfers ENC makes on a sink that accepts: the bytes of the encoding from its index on. -/
def Enc.toCome (x : Variant) (e : Enc) : Nat :=
  match e.phase with
  | .idle => 0
  | .emit => (encodeValue x e.value).length - e.idx.toNat

theorem Dec.toCome_idle {d : Dec} (hp : d.phase = .idle) : d.toCome = 0 := by simp [Dec.toCome, hp]
theorem Dec.toCome_lead {d : Dec} (hp : d.phase = .lead) : d.toCome = 9 := by simp [Dec.toCome, hp]
theorem Dec.toCome_payload {d : Dec} (hp : d.phase = .payload) : d.toCome = d.rem.toNat := by simp [Dec.toCome, hp]

theorem Enc.toCome_idle {e : Enc} (hp : e.phase = .idle) : e.toCome x = 0 := by simp [Enc.toCome, hp]
theorem Enc.toCome_emit {e : Enc} (hp : e.phase = .emit) :
    e.toCome x = (encodeValue x e.value).length - e.idx.toNat := by simp [Enc.toCome, hp]

/-- Under the invariant DEC has nothing to come exactly when it is idle, and never more than 9 transfers. -/
theorem DecInv.toCome_bounds {d : Dec} (hi : DecInv x d) : (d.toCome = 0 ↔ d.phase = .idle) ∧ d.toCome ≤ 9 := by
  obtain ⟨-, hpayload, -, -⟩ := hi
  cases hp : d.phase with
  | idle => simp [Dec.toCome_idle hp]
  | lead => simp [Dec.toCome_lead hp]
  | payload =>
    obtain ⟨h1, h8⟩ := (hpayload hp).count_range
    simp only [Dec.toCome_payload hp, reduceCtorEq, iff_false]
    omega

/-- Under the invariant ENC has nothing to come exactly when it is idle, and never more than 9 transfers. -/
theorem EncInv.toCome_bounds {e : Enc} (hi : EncInv x e) : (e.toCome x = 0 ↔ e.phase = .idle) ∧ e.toCome x ≤ 9 := by
  obtain ⟨hemit, -, -⟩ := hi
  cases hp : e.phase with
  | idle => simp [Enc.toCome_idle hp]
  | emit =>
    obtain ⟨-, hidx⟩ := hemit hp
    obtain ⟨-, h9⟩ := encodeValue_length_bounds x e.value
    simp only [Enc.toCome_emit hp, reduceCtorEq, iff_false]
    omega

/-- A transfer of a DEC in flight completes, or waits for payload of which less is missing than was to come. -/
theorem decTransfer_progress {r : SrcAnswer} {s t : RunState} (hp : s.dec.phase ≠ .idle)
    (h : decTransfer x r s = .next t) : (t.dec.phase = .idle ∧ t.dec.done = true) ∨
      (t.dec.phase = .payload ∧ t.dec.rem.toNat < s.dec.toCome) := by
  obtain ⟨hidle, -⟩ | ⟨-, -, rfl⟩ | ⟨-, -, rfl⟩ | ⟨b, hlead, -, rfl⟩ | ⟨b, hpayload, -, h⟩ := decTransfer_next h
  · exact absurd hidle hp
  · exact .inl ⟨rfl, rfl⟩
  · exact .inl ⟨rfl, rfl⟩
  · obtain ⟨-, h⟩ | ⟨-, h⟩ | ⟨k, n, acc0, hc, h⟩ := leadByte_cases x b (srcRead (.byte b) s) <;> rw [h]
    · exact .inl ⟨rfl, rfl⟩
    · exact .inl ⟨rfl, rfl⟩
    · obtain ⟨-, h8, -⟩ := classify_multi_bounds hc
      have hrem : (BitVec.ofNat 4 n).toNat < 9 := by simp; omega
      exact .inr ⟨rfl, Dec.toCome_lead hlead ▸ hrem⟩
  · obtain ⟨h1, -, ⟨-, rfl⟩ | ⟨-, rfl⟩⟩ := payloadByte_next h
    · exact .inl ⟨rfl, rfl⟩
    · rw [srcRead_dec] at h1
      refine .inr ⟨by simpa using hpayload, ?_⟩
      rw [Dec.toCome_payload hpayload, srcRead_dec]
      bv_omega

/-- A transfer of an ENC in flight completes, or goes on with one byte less to come. -/
theorem encTransfer_progress {r : SinkAnswer} {s t : RunState} (hp : s.enc.phase = .emit) (hi : EncInv x s.enc)
    (h : encTransfer x r s = .next t) : (t.enc.phase = .idle ∧ t.enc.done = true) ∨
      (t.enc.phase = .emit ∧ t.enc.toCome x < s.enc.toCome x) := by
  obtain ⟨b, -, ⟨-, rfl⟩ | ⟨-, -, rfl⟩ | ⟨-, -, rfl⟩⟩ := encTransfer_next h
  · exact .inl ⟨rfl, rfl⟩
  · exact .inl ⟨rfl, rfl⟩
  · obtain ⟨hemit, -, -⟩ := hi
    obtain ⟨-, hidx⟩ := hemit hp
    obtain ⟨-, h9⟩ := encodeValue_length_bounds x s.enc.value
    refine .inr ⟨hp, ?_⟩
    rw [Enc.toCome_emit hp, Enc.toCome_emit (by exact hp)]
    have hnext : (s.enc.idx + 1#4).toNat = s.enc.idx.toNat + 1 := by bv_omega
    simp only [hnext]
    omega

/-! ### An operation whose transfers are answered (R199) -/

theorem decNext_of_source {r : SrcAnswer} {rest : List SrcAnswer} {s : RunState} (h : s.source = r :: rest) :
    decNext x s = decTransfer x r s := by
  simp [decNext, h]

theorem encNext_of_sinkAnswers {r : SinkAnswer} {rest : List SinkAnswer} {s : RunState}
    (h : s.sinkAnswers = r :: rest) : encNext x s = encTransfer x r s := by
  simp [encNext, h]

/-- Transfers that each keep `P` and leave fewer to come are over after as many as were to come. -/
theorem transfers_complete {transfers : Nat → State → Host.Outcome State Fault Refusal} {P : State → Prop}
    {toCome : State → Nat} (hover : ∀ n s, P s → toCome s = 0 → transfers n s = .next s)
    (hmore : ∀ n s, P s → toCome s ≠ 0 → ∃ u, transfers (n + 1) s = transfers n u ∧ P u ∧ toCome u < toCome s)
    (n : Nat) {s : State} (hs : P s) (hn : toCome s ≤ n) : ∃ t, transfers n s = .next t ∧ P t ∧ toCome t = 0 := by
  induction n generalizing s with
  | zero =>
    have h0 : toCome s = 0 := Nat.le_zero.1 hn
    exact ⟨s, hover 0 s hs h0, hs, h0⟩
  | succ n ih =>
    by_cases h0 : toCome s = 0
    · exact ⟨s, hover (n + 1) s hs h0, hs, h0⟩
    · obtain ⟨u, hu, hPu, hlt⟩ := hmore n s hs h0
      rw [hu]
      exact ih hPu (by omega)

/-- A DECODE that the source will answer to its end, or one that has completed. -/
structure DecAnswered (s : State) : Prop where
  inv : DecInv s.variant s.dec
  completed : s.dec.phase = .idle → s.dec.done = true
  answers : s.dec.toCome ≤ s.source.length

/-- An ENCODE that the sink will answer to its end, or one that has completed. -/
structure EncAnswered (s : State) : Prop where
  inv : EncInv s.variant s.enc
  completed : s.enc.phase = .idle → s.enc.done = true
  answers : s.enc.toCome s.variant ≤ s.sinkAnswers.length

/-- The next transfer of an answered DECODE in flight answers, and leaves it answered with less to come. -/
theorem DecAnswered.next_transfer {s : State} (ha : DecAnswered s) (hp : s.dec.phase ≠ .idle) :
    ∃ u, perform decNext s = .next u ∧ DecAnswered u ∧ u.dec.toCome < s.dec.toCome := by
  have hpos : 0 < s.dec.toCome := Nat.pos_of_ne_zero fun h => hp (ha.inv.toCome_bounds.1.1 h)
  obtain ⟨r, rest, hsource⟩ := List.exists_cons_of_length_pos (hpos.trans_le ha.answers)
  obtain ⟨u, hu⟩ := decTransfer_answers r ha.inv
  have hinv : DecInv s.variant u.dec := decTransfer_keeps_decInv ha.inv hu
  have hrest : s.source.length = u.source.length + 1 := by
    rw [decTransfer_source hp hu, hsource, List.tail_cons, List.length_cons]
  have hprogress : (u.dec.phase = .idle → u.dec.done = true) ∧ u.dec.toCome < s.dec.toCome := by
    obtain ⟨hidle, hdone⟩ | ⟨hpayload, hlt⟩ := decTransfer_progress hp hu
    · exact ⟨fun _ => hdone, by rwa [Dec.toCome_idle hidle]⟩
    · exact ⟨by simp [hpayload], by rwa [Dec.toCome_payload hpayload]⟩
  obtain ⟨hdone, hless⟩ := hprogress
  have hanswers := ha.answers
  exact ⟨_, perform_of_next ((decNext_of_source hsource).trans hu), ⟨hinv, hdone, by dsimp only; omega⟩, hless⟩

/-- The next transfer of an answered ENCODE in flight answers, and leaves it answered with less to come. -/
theorem EncAnswered.next_transfer {s : State} (ha : EncAnswered s) (hp : s.enc.phase = .emit) :
    ∃ u, perform encNext s = .next u ∧ EncAnswered u ∧ u.enc.toCome u.variant < s.enc.toCome s.variant := by
  have hpos : 0 < s.enc.toCome s.variant :=
    Nat.pos_of_ne_zero fun h => by simp [ha.inv.toCome_bounds.1.1 h] at hp
  obtain ⟨r, rest, hsink⟩ := List.exists_cons_of_length_pos (hpos.trans_le ha.answers)
  obtain ⟨u, hu⟩ := encTransfer_answers r hp ha.inv
  have hinv : EncInv s.variant u.enc := encTransfer_keeps_encInv hp ha.inv hu
  have hrest : s.sinkAnswers.length = u.sinkAnswers.length + 1 := by
    rw [encTransfer_sinkAnswers hu, hsink, List.tail_cons, List.length_cons]
  have hprogress : (u.enc.phase = .idle → u.enc.done = true) ∧ u.enc.toCome s.variant < s.enc.toCome s.variant := by
    obtain ⟨hidle, hdone⟩ | ⟨hemit, hlt⟩ := encTransfer_progress hp ha.inv hu
    · exact ⟨fun _ => hdone, by rwa [Enc.toCome_idle hidle]⟩
    · exact ⟨by simp [hemit], hlt⟩
  obtain ⟨hdone, hless⟩ := hprogress
  have hanswers := ha.answers
  exact ⟨_, perform_of_next ((encNext_of_sinkAnswers hsink).trans hu), ⟨hinv, hdone, by dsimp only; omega⟩, hless⟩

theorem decTransfers_complete (n : Nat) {s : State} (ha : DecAnswered s) (hn : s.dec.toCome ≤ n) :
    ∃ t, decTransfers n s = .next t ∧ t.dec.phase = .idle ∧ t.dec.done = true := by
  obtain ⟨t, ht, hat, h0⟩ := transfers_complete (transfers := decTransfers) (P := DecAnswered)
    (toCome := fun s => s.dec.toCome) (fun n s ha h0 => decTransfers_idle n (ha.inv.toCome_bounds.1.1 h0))
    (fun n s ha hne => by
      obtain ⟨u, hu, hau, hlt⟩ := ha.next_transfer fun hp => hne (Dec.toCome_idle hp)
      exact ⟨u, by rw [decTransfers, hu, andThen_next], hau, hlt⟩) n ha hn
  have hidle : t.dec.phase = .idle := hat.inv.toCome_bounds.1.1 h0
  exact ⟨t, ht, hidle, hat.completed hidle⟩

theorem encTransfers_complete (n : Nat) {s : State} (ha : EncAnswered s) (hn : s.enc.toCome s.variant ≤ n) :
    ∃ t, encTransfers n s = .next t ∧ t.enc.phase = .idle ∧ t.enc.done = true := by
  obtain ⟨t, ht, hat, h0⟩ := transfers_complete (transfers := encTransfers) (P := EncAnswered)
    (toCome := fun s => s.enc.toCome s.variant) (fun n s ha h0 => encTransfers_idle n (ha.inv.toCome_bounds.1.1 h0))
    (fun n s ha hne => by
      cases hp : s.enc.phase with
      | idle => exact absurd (Enc.toCome_idle hp) hne
      | emit =>
        obtain ⟨u, hu, hau, hlt⟩ := ha.next_transfer hp
        exact ⟨u, by rw [encTransfers_succ n hp, hu, andThen_next], hau, hlt⟩) n ha hn
  have hidle : t.enc.phase = .idle := hat.inv.toCome_bounds.1.1 h0
  exact ⟨t, ht, hidle, hat.completed hidle⟩

/-- Settles O56: at most 9 transfers are to come in a state of the invariant, and each that is answered leaves fewer. -/
theorem operationsCompleteInNineTransfers : Obligations.OperationsCompleteInNineTransfers := by
  rintro s ⟨henc, hdec⟩
  obtain ⟨-, henc9⟩ := henc.toCome_bounds
  obtain ⟨-, hdec9⟩ := hdec.toCome_bounds
  exact ⟨fun hp hanswers => decTransfers_complete 9 ⟨hdec, fun hidle => absurd hidle hp, hdec9.trans hanswers⟩ hdec9,
    fun hp hanswers => encTransfers_complete 9 ⟨henc, by simp [hp], henc9.trans hanswers⟩ henc9⟩

end Sys2Proof.Machine
